-- ==== Sys2Proof/Word.lean ====
section
/-! DEFINITION. The word types of the EP0 control-transfer engine: CPU bytes (R61), 16-bit registers and packet-memory
words (R8, R68), 32-bit CPU addresses (R7 `ADDR_BITS`, R61). All arithmetic is unsigned (R9, R15). -/

namespace Sys2Proof

/-- A byte of CPU memory, of packet memory, or of an encoded record. -/
abbrev Byte := BitVec 8

/-- A peripheral register, a packet-memory word, or a 16-bit setup field (R8). -/
abbrev Half := BitVec 16

/-- A CPU byte address (R61) or an unsigned 32-bit count (R21). -/
abbrev Addr := BitVec 32

end Sys2Proof
end

