-- ==== Sys2Proof/Syntax.lean ====
section
/-! DEFINITION. The block's instructions: one constructor of `Instr` per row of spec/opcode_table.json, over the five
encoded input kinds of R90 (setup packets, interrupt events, stages, command calls, host transactions). -/

namespace Sys2Proof

/-- A transfer direction (R11): `dirIn` is device-to-host (the TX side), `dirOut` host-to-device (the RX side). -/
inductive Dir where
  | dirIn
  | dirOut
deriving DecidableEq, Repr

/-- The transfer types of `EP_TYPE` (R36). -/
inductive EpType where
  | bulk
  | control
  | isochronous
  | interrupt
deriving DecidableEq, Repr

/-- The values of `STAT_RX` and `STAT_TX` (R35). -/
inductive Stat where
  | disabled
  | stall
  | nak
  | valid
deriving DecidableEq, Repr

/-- A completion-callback id (R21, R28).  Id 1 names `CONTROL_FSM`; null is `none` of `Option CbId`. -/
abbrev CbId := BitVec 16

/-- The non-null flags of the 21 driver capabilities (R250), one bit each, numbered by `Cap.index`. -/
abbrev DriverFlags := BitVec 21

/-- A setup packet (R24, R91). -/
structure SetupPacket where
  bmRequestType : Byte
  bRequest : Byte
  wValue : Half
  wIndex : Half
  wLength : Half
deriving DecidableEq, Repr

/-- The fields a `SETUP8` row leaves free (R92, R98): `DIR`, `RECIP` and the three 16-bit fields. -/
structure Req where
  dir : Bool
  recip : BitVec 5
  wValue : Half
  wIndex : Half
  wLength : Half
deriving DecidableEq, Repr

/-- The instructions (R90), one constructor per row of the opcode table. -/
inductive Instr where
  -- SETUP8 (R99)
  | getStatus (r : Req)
  | clearFeature (r : Req)
  | setFeature (r : Req)
  | setAddress (r : Req)
  | getDescriptor (r : Req)
  | setDescriptor (r : Req)
  | getConfiguration (r : Req)
  | setConfiguration (r : Req)
  | getInterface (r : Req)
  | setInterface (r : Req)
  | synchFrame (r : Req)
  | stdUndefined (bRequest : Byte) (r : Req)
  | classRequest (bRequest : Byte) (r : Req)
  | vendorRequest (bRequest : Byte) (r : Req)
  | reservedType (bRequest : Byte) (r : Req)
  -- ISTR16 (R100)
  | ctrEp0Out
  | ctrEp0In
  | ctrEpnOut (n : BitVec 4)
  | ctrEpnIn (n : BitVec 4)
  | evReset
  | evWkup
  | evSusp
  | evSof
  -- STAGE3 (R101)
  | stageSetup
  | stageDataIn
  | stageDataOut
  | stageStatusIn
  | stageStatusOut
  -- CALL8 (R102)
  | prepareDataIn (buf count : Addr)
  | prepareDataOut (buf count : Addr) (onComplete : Option CbId)
  | prepareStatusIn
  | pmaRead (offset : Half) (dst : Addr) (count : Half)
  | pmaWrite (src : Addr) (offset count : Half)
  | registerEndpoint (ep : Byte) (ty : EpType) (txAddr rxAddr rxCount : Half) (onIn onOut : Option CbId)
  | registerEndpointTx (ep : Byte) (ty : EpType) (txAddr : Half) (onIn : Option CbId)
  | registerEndpointRx (ep : Byte) (ty : EpType) (rxAddr rxCount : Half) (onOut : Option CbId)
  | registerEndpointDoubleTx (ep : Byte) (ty : EpType) (addr0 addr1 : Half) (onIn : Option CbId)
  | registerEndpointDoubleRx (ep : Byte) (ty : EpType) (addr0 addr1 rxCount : Half) (onOut : Option CbId)
  | unregisterEndpoint (ep : Byte)
  | coreInit (driver : Option DriverFlags)
  | epConfigure (n : Byte) (ty : EpType) (txAddr rxAddr rxCount : Half)
  | epConfigureTx (n : Byte) (ty : EpType) (txAddr : Half)
  | epConfigureRx (n : Byte) (ty : EpType) (rxAddr rxCount : Half)
  | epConfigureDoubleTx (n : Byte) (ty : EpType) (addr0 addr1 : Half)
  | epConfigureDoubleRx (n : Byte) (ty : EpType) (addr0 addr1 rxCount : Half)
  | epClearConfiguration (n : Byte)
  | epSetStall (n : Byte) (dir : Dir)
  | epClearStall (n : Byte) (dir : Dir)
  | epGetStall (n : Byte) (dir : Dir)
  | epSetStatus (n : Byte) (dir : Dir) (st : Stat)
  | epSetKind (n : Byte)
  | epClearKind (n : Byte)
  | epClearTransferComplete (n : Byte) (dir : Dir)
  | stallEp0 (cause : Byte)
  -- TOKEN (R103)
  | hostSetup (addr : BitVec 7) (ep : BitVec 4) (data : List Byte)
  | hostOut (addr : BitVec 7) (ep : BitVec 4) (data : List Byte)
  | hostIn (addr : BitVec 7) (ep : BitVec 4)
  | hostSof (frame : BitVec 11)
  | hostBusReset
  | hostSuspend
  | hostResume
deriving DecidableEq, Repr

end Sys2Proof
end

