-- ==== Sys2Proof/Config.lean ====
section
/-! DEFINITION. What an implementation fixes (the parameters of R7, held as plain data in `State.cfg`) and the free
values (the draws of spec/93_implementation_defined.md, section 1), as constants without a body. -/

namespace Sys2Proof

/-- `dev.state` and `dev.previous_state` (R25). -/
inductive DevState where
  | default
  | addressed
  | configured
  | suspended
deriving DecidableEq, Repr

/-- The 13 dispatch points (R251, R252). -/
inductive Point where
  | getStatus
  | clearFeature
  | setFeature
  | setAddress
  | getDescriptor
  | setDescriptor
  | getConfiguration
  | setConfiguration
  | getInterface
  | setInterface
  | synchFrame
  | classPoint
  | vendorPoint
deriving DecidableEq, Repr

/-- `HANDLER_TABLE` (R252): for each device state, the points whose slot is not null. -/
structure HandlerTable where
  default : List Point
  addressed : List Point
  configured : List Point
  suspended : List Point
deriving DecidableEq, Repr

/-- A mapped range of CPU memory (R61): `base` and `size` in bytes. -/
structure Region where
  base : Nat
  size : Nat
deriving DecidableEq, Repr

/-- The parameters of R7.  No step changes them (R33).  `N_EP` = 8 and `PMA_WORD_BITS` = 16 are the fixed widths, which stand
in the types (log 22). -/
structure Params where
  /-- `ADDR_BITS` (D11): the CPU's addresses are those below `2 ^ ADDR_BITS`. -/
  addrBits : Nat
  /-- `PMA_BYTES` (D7). -/
  pmaBytes : Nat
  /-- `MPS0` (D9). -/
  mps0 : Nat
  /-- `BTABLE_OFF`, `EP0_RX_OFF`, `EP0_TX_OFF` (D10). -/
  btableOff : Half
  ep0RxOff : Half
  ep0TxOff : Half
  /-- `P_DATAIN_RX_MULTI` (D24): `nak` or `stall`. -/
  dataInRxMulti : Stat
  /-- `P_SHORT_OUT_ENDS` (D27). -/
  shortOutEnds : Bool
  /-- `HANDLER_TABLE` (D34). -/
  handlers : HandlerTable
  /-- `USB_BASE` (D8): where the foreground reaches the registers of R62. -/
  usbBase : Addr
  /-- `PMA_BASE` (D8): the spec gives the CPU's access scheme no meaning (N12), so nothing reads it. -/
  pmaBase : Addr
  /-- `STATUS_BUF_ADDR` (R30, D41). -/
  statusBufAddr : Addr
  /-- The CPU memory that the platform maps (R61). -/
  cpuMap : List Region
deriving DecidableEq, Repr

/-- U2: the high byte of the last word of an odd-length `pma_write` (R140); the argument counts the draws. -/
opaque Config.freeByte : Nat → Byte

/-- U3: `DTOG_TX` (bit 1) and `DTOG_RX` (bit 0) of a control endpoint after a SETUP (R292). -/
opaque Config.freeToggles : Nat → BitVec 2

/-- U4: which of several pending endpoints `ISTR.EP_ID` reports (R41). -/
opaque Config.epIdChoice : Nat → Nat

/-- U5: `ISTR.DIR` and `ISTR.EP_ID` while `ISTR.CTR = 0` (R41). -/
opaque Config.freeIstrLow : Nat → BitVec 5

/-- U8: the first word of a driver answer (a bool in bit 0, a byte in bits 7:0, or an address) that no `DRV` line
fixes (R250). -/
opaque Config.freeAnswer : Nat → Addr

/-- U8: the byte count of a descriptor answer that no `DRV` line fixes (R250). -/
opaque Config.freeCount : Nat → Addr

/-- `BL_SIZE` and `NUM_BLOCK` for a receive count above 1024, which R46 says `encode_rx` is never called with: the
spec states no result there. -/
opaque Config.encodeRxBeyond : Half → BitVec 6

end Sys2Proof
end

