-- ==== Sys2Proof/WellFormed.lean ====
section
/-! DEFINITION. Which instructions are well formed: the operand values that the encodings of R99 to R103 can carry.
The types of `Instr` bound everything else. -/

namespace Sys2Proof

/-- The eleven defined standard request codes (R93). -/
def definedStdCodes : List Byte := [0, 1, 3, 5, 6, 7, 8, 9, 10, 11, 12]

/-- A callback operand: null is `none`, so the id 0 never stands under `some`. -/
def cbOk (cb : Option CbId) : Bool := cb != some 0

/-- A stall cause is one of the labels of R321, 1 to 12. -/
def causeOk (c : Byte) : Bool := decide (1 ≤ c.toNat) && decide (c.toNat ≤ 12)

/-- The checks: an undefined standard request carries none of the eleven codes (R99, first match wins), an endpoint-n
completion is not endpoint 0's (R100), a callback id is not the null code, a stall cause is one of R321's. -/
def Instr.wf : Instr → Bool
  | .stdUndefined b _ => !(definedStdCodes.contains b)
  | .ctrEpnOut n => n != 0
  | .ctrEpnIn n => n != 0
  | .prepareDataOut _ _ cb => cbOk cb
  | .registerEndpoint _ _ _ _ _ i o => cbOk i && cbOk o
  | .registerEndpointTx _ _ _ i => cbOk i
  | .registerEndpointRx _ _ _ _ o => cbOk o
  | .registerEndpointDoubleTx _ _ _ _ i => cbOk i
  | .registerEndpointDoubleRx _ _ _ _ _ o => cbOk o
  | .getStatus _ | .clearFeature _ | .setFeature _ | .setAddress _ | .getDescriptor _ | .setDescriptor _
  | .getConfiguration _ | .setConfiguration _ | .getInterface _ | .setInterface _ | .synchFrame _
  | .classRequest _ _ | .vendorRequest _ _ | .reservedType _ _ => true
  | .ctrEp0Out | .ctrEp0In | .evReset | .evWkup | .evSusp | .evSof => true
  | .stageSetup | .stageDataIn | .stageDataOut | .stageStatusIn | .stageStatusOut => true
  | .prepareDataIn _ _ | .prepareStatusIn | .pmaRead _ _ _ | .pmaWrite _ _ _ => true
  | .unregisterEndpoint _ | .coreInit _ => true
  | .epConfigure _ _ _ _ _ | .epConfigureTx _ _ _ | .epConfigureRx _ _ _ _ => true
  | .epConfigureDoubleTx _ _ _ _ | .epConfigureDoubleRx _ _ _ _ _ | .epClearConfiguration _ => true
  | .epSetStall _ _ | .epClearStall _ _ | .epGetStall _ _ | .epSetStatus _ _ _ => true
  | .epSetKind _ | .epClearKind _ | .epClearTransferComplete _ _ => true
  | .stallEp0 c => causeOk c
  | .hostSetup _ _ _ | .hostOut _ _ _ | .hostIn _ _ | .hostSof _ => true
  | .hostBusReset | .hostSuspend | .hostResume => true

/-- `i` is well formed. -/
abbrev WellFormed (i : Instr) : Prop := i.wf = true

end Sys2Proof
end

