-- ==== Sys2Proof/Decode.lean ====
section
/-! DEFINITION. The decoder of the five encoded input kinds (R90), total and rejecting by name, and after it the encoder
written from the same tables (R91 to R103).  Byte order is little-endian (R64). -/

namespace Sys2Proof

/-! ## Bytes and words (R64, R65) -/

/-- The 16-bit word whose byte at the lower offset is `lo` (R64). -/
def le16 (lo hi : Byte) : Half := hi ++ lo

/-- The 32-bit word of four bytes, lowest first (R64). -/
def le32 (b0 b1 b2 b3 : Byte) : Addr := le16 b2 b3 ++ le16 b0 b1

/-- Byte `k` of a word, byte 0 the least significant (R64). -/
def byteAt {w : Nat} (v : BitVec w) (k : Nat) : Byte := v.extractLsb' (8 * k) 8

/-! ## Operand codes -/

/-- `EP_TYPE` codes (R36). -/
def EpType.code : EpType → BitVec 2
  | .bulk => 0
  | .control => 1
  | .isochronous => 2
  | .interrupt => 3

/-- The transfer type of a code; every code is one (R36). -/
def EpType.ofCode (c : BitVec 2) : EpType :=
  if c = 0 then .bulk else if c = 1 then .control else if c = 2 then .isochronous else .interrupt

/-- `STAT` codes (R35). -/
def Stat.code : Stat → BitVec 2
  | .disabled => 0
  | .stall => 1
  | .nak => 2
  | .valid => 3

/-- The status of a code; every code is one (R35). -/
def Stat.ofCode (c : BitVec 2) : Stat :=
  if c = 0 then .disabled else if c = 1 then .stall else if c = 2 then .nak else .valid

/-- A direction as an operand byte.  DESIGN CHOICE (log 3): 1 IN, 0 OUT, as `wIndex[7]` codes it (R94). -/
def Dir.code : Dir → Byte
  | .dirIn => 1
  | .dirOut => 0

/-- The direction of an operand byte; other bytes are no direction. -/
def Dir.ofByte (b : Byte) : Option Dir :=
  if b = 0 then some .dirOut else if b = 1 then some .dirIn else none

/-- A transfer-type operand byte: the `EP_TYPE` code in bits 1:0, bits 7:2 zero (log 3). -/
def EpType.ofByte (b : Byte) : Option EpType :=
  if b.extractLsb' 2 6 = 0 then some (EpType.ofCode (b.extractLsb' 0 2)) else none

/-- A status operand byte: the `STAT` code in bits 1:0, bits 7:2 zero (log 3). -/
def Stat.ofByte (b : Byte) : Option Stat :=
  if b.extractLsb' 2 6 = 0 then some (Stat.ofCode (b.extractLsb' 0 2)) else none

/-- A 2-bit code as an operand byte. -/
def byteOfCode (c : BitVec 2) : Byte := c.setWidth 8

/-- A callback operand: id 0 is the null callback (log 3). -/
def cbOfWord (w : Half) : Option CbId := if w = 0 then none else some w

/-- The word of a callback operand. -/
def cbWord : Option CbId → Half
  | none => 0
  | some c => c

/-- A driver operand: bit 31 says the driver is not null, bits 20:0 are its non-null capabilities (log 3). -/
def driverWord : Option DriverFlags → Addr
  | none => 0
  | some f => (0x400#11) ++ f

/-- The driver operand of a word; a word with another bit set is none of them. -/
def driverOfWord (w : Addr) : Option (Option DriverFlags) :=
  if w = 0 then some none
  else if w.extractLsb' 21 11 = 0x400#11 then some (some (w.extractLsb' 0 21))
  else none

/-! ## Encoded inputs and the reasons to reject one -/

/-- The bus events that are not packets (R103). -/
inductive BusEvent where
  | busReset
  | suspend
  | resume
deriving DecidableEq, Repr

/-- An encoded input of one of the five kinds of R90.  A bus event has no numeric encoding (R103). -/
inductive Enc where
  | setup8 (bytes : List Byte)
  | istr16 (w : Half)
  | stage3 (w : BitVec 3)
  | call8 (bytes : List Byte)
  | token (bytes : List Byte)
  | event (e : BusEvent)
deriving DecidableEq, Repr

/-- Why a decoder rejects its input. -/
inductive DecodeError where
  /-- A setup packet is exactly 8 bytes (R105). -/
  | setupLength
  /-- No event pattern of R100 matches the snapshot. -/
  | noEvent
  /-- Stage values 5 to 7 decode to nothing (R101). -/
  | badStage
  /-- An unassigned command id (R102). -/
  | unassignedCall (id : Byte)
  /-- The argument list is not the one of the command. -/
  | badArguments
  /-- A record whose PID starts no step of the SIE (R104). -/
  | noStepPid (pid : Byte)
  /-- A token record without its address, endpoint or frame number (R103). -/
  | badToken
deriving DecidableEq, Repr

/-! ## SETUP8 (R91, R92, R99) -/

/-- `parse` of R212: the setup packet of eight bytes, or none of any other number (R105). -/
def parseSetup : List Byte → Option SetupPacket
  | [b0, b1, b2, b3, b4, b5, b6, b7] => some
      { bmRequestType := b0, bRequest := b1, wValue := le16 b2 b3, wIndex := le16 b4 b5, wLength := le16 b6 b7 }
  | _ => none

/-- The eight bytes of a setup packet (R91). -/
def SetupPacket.bytes (p : SetupPacket) : List Byte :=
  [p.bmRequestType, p.bRequest, byteAt p.wValue 0, byteAt p.wValue 1, byteAt p.wIndex 0, byteAt p.wIndex 1,
   byteAt p.wLength 0, byteAt p.wLength 1]

/-- `TYPE`, bits 6:5 of `bmRequestType` (R92). -/
def SetupPacket.type (p : SetupPacket) : BitVec 2 := p.bmRequestType.extractLsb' 5 2

/-- The fields that the row leaves free (R92, R98). -/
def SetupPacket.req (p : SetupPacket) : Req :=
  { dir := p.bmRequestType.getLsbD 7, recip := p.bmRequestType.extractLsb' 0 5,
    wValue := p.wValue, wIndex := p.wIndex, wLength := p.wLength }

/-- `key` of R99. -/
def SetupPacket.key (p : SetupPacket) : Half := p.bRequest ++ p.bmRequestType

/-- The `bRequest` switch of a standard request (R93). -/
def decodeStd (b : Byte) (r : Req) : Instr :=
  if b = 0 then .getStatus r
  else if b = 1 then .clearFeature r
  else if b = 3 then .setFeature r
  else if b = 5 then .setAddress r
  else if b = 6 then .getDescriptor r
  else if b = 7 then .setDescriptor r
  else if b = 8 then .getConfiguration r
  else if b = 9 then .setConfiguration r
  else if b = 10 then .getInterface r
  else if b = 11 then .setInterface r
  else if b = 12 then .synchFrame r
  else .stdUndefined b r

/-- The setup-packet decode, total (R99). -/
def decodeSetup (p : SetupPacket) : Instr :=
  if p.type = 0 then decodeStd p.bRequest p.req
  else if p.type = 1 then .classRequest p.bRequest p.req
  else if p.type = 2 then .vendorRequest p.bRequest p.req
  else .reservedType p.bRequest p.req

/-- The setup packet of a request of type `ty` and code `b` (R91, R92). -/
def Req.packet (ty : BitVec 2) (b : Byte) (r : Req) : SetupPacket :=
  { bmRequestType := BitVec.ofBool r.dir ++ ty ++ r.recip, bRequest := b,
    wValue := r.wValue, wIndex := r.wIndex, wLength := r.wLength }

/-! ## ISTR16 (R100) and STAGE3 (R101) -/

/-- The first event pattern, in the order of R100, that a snapshot matches. -/
def decodeIstr (w : Half) : Option Instr :=
  if w.getLsbD 15 then
    if w.extractLsb' 0 4 = 0 then
      if w.getLsbD 4 then some .ctrEp0Out else some .ctrEp0In
    else
      if w.getLsbD 4 then some (.ctrEpnOut (w.extractLsb' 0 4)) else some (.ctrEpnIn (w.extractLsb' 0 4))
  else if w.getLsbD 10 then some .evReset
  else if w.getLsbD 12 then some .evWkup
  else if w.getLsbD 11 then some .evSusp
  else if w.getLsbD 9 then some .evSof
  else none

/-- The stage function that a value of `ctx.stage` selects (R22, R101). -/
def decodeStage (w : BitVec 3) : Option Instr :=
  if w = 0 then some .stageSetup
  else if w = 1 then some .stageDataIn
  else if w = 2 then some .stageDataOut
  else if w = 3 then some .stageStatusIn
  else if w = 4 then some .stageStatusOut
  else none

/-! ## CALL8 (R102).  The argument layout is the model's (log 3): the arguments in the order of R102, each little-endian
at its own width. -/

/-- Arguments of the endpoint-table commands (ids 0x06 to 0x0B). -/
def decodeTableCall (id : Nat) (as : List Byte) : Option Instr :=
  match id, as with
  | 0x06, [e, t, x0, x1, r0, r1, c0, c1, i0, i1, o0, o1] => do
      let ty ← EpType.ofByte t
      some (.registerEndpoint e ty (le16 x0 x1) (le16 r0 r1) (le16 c0 c1) (cbOfWord (le16 i0 i1)) (cbOfWord (le16 o0 o1)))
  | 0x07, [e, t, x0, x1, i0, i1] => do
      let ty ← EpType.ofByte t
      some (.registerEndpointTx e ty (le16 x0 x1) (cbOfWord (le16 i0 i1)))
  | 0x08, [e, t, r0, r1, c0, c1, o0, o1] => do
      let ty ← EpType.ofByte t
      some (.registerEndpointRx e ty (le16 r0 r1) (le16 c0 c1) (cbOfWord (le16 o0 o1)))
  | 0x09, [e, t, x0, x1, y0, y1, i0, i1] => do
      let ty ← EpType.ofByte t
      some (.registerEndpointDoubleTx e ty (le16 x0 x1) (le16 y0 y1) (cbOfWord (le16 i0 i1)))
  | 0x0A, [e, t, x0, x1, y0, y1, c0, c1, o0, o1] => do
      let ty ← EpType.ofByte t
      some (.registerEndpointDoubleRx e ty (le16 x0 x1) (le16 y0 y1) (le16 c0 c1) (cbOfWord (le16 o0 o1)))
  | 0x0B, [e] => some (.unregisterEndpoint e)
  | _, _ => none

/-- Arguments of the endpoint-register commands (ids 0x10 to 0x1C). -/
def decodeEpCall (id : Nat) (as : List Byte) : Option Instr :=
  match id, as with
  | 0x10, [n, t, x0, x1, r0, r1, c0, c1] => do
      let ty ← EpType.ofByte t
      some (.epConfigure n ty (le16 x0 x1) (le16 r0 r1) (le16 c0 c1))
  | 0x11, [n, t, x0, x1] => do
      let ty ← EpType.ofByte t
      some (.epConfigureTx n ty (le16 x0 x1))
  | 0x12, [n, t, r0, r1, c0, c1] => do
      let ty ← EpType.ofByte t
      some (.epConfigureRx n ty (le16 r0 r1) (le16 c0 c1))
  | 0x13, [n, t, x0, x1, y0, y1] => do
      let ty ← EpType.ofByte t
      some (.epConfigureDoubleTx n ty (le16 x0 x1) (le16 y0 y1))
  | 0x14, [n, t, x0, x1, y0, y1, c0, c1] => do
      let ty ← EpType.ofByte t
      some (.epConfigureDoubleRx n ty (le16 x0 x1) (le16 y0 y1) (le16 c0 c1))
  | 0x15, [n] => some (.epClearConfiguration n)
  | 0x16, [n, d] => do
      let dir ← Dir.ofByte d
      some (.epSetStall n dir)
  | 0x17, [n, d] => do
      let dir ← Dir.ofByte d
      some (.epClearStall n dir)
  | 0x18, [n, d] => do
      let dir ← Dir.ofByte d
      some (.epGetStall n dir)
  | 0x19, [n, d, v] => do
      let dir ← Dir.ofByte d
      let st ← Stat.ofByte v
      some (.epSetStatus n dir st)
  | 0x1A, [n] => some (.epSetKind n)
  | 0x1B, [n] => some (.epClearKind n)
  | 0x1C, [n, d] => do
      let dir ← Dir.ofByte d
      some (.epClearTransferComplete n dir)
  | _, _ => none

/-- Arguments of the remaining commands (ids 0x01 to 0x05, 0x0C, 0x20). -/
def decodeCoreCall (id : Nat) (as : List Byte) : Option Instr :=
  match id, as with
  | 0x01, [a0, a1, a2, a3, c0, c1, c2, c3] => some (.prepareDataIn (le32 a0 a1 a2 a3) (le32 c0 c1 c2 c3))
  | 0x02, [a0, a1, a2, a3, c0, c1, c2, c3, f0, f1] =>
      some (.prepareDataOut (le32 a0 a1 a2 a3) (le32 c0 c1 c2 c3) (cbOfWord (le16 f0 f1)))
  | 0x03, [] => some .prepareStatusIn
  | 0x04, [o0, o1, a0, a1, a2, a3, c0, c1] => some (.pmaRead (le16 o0 o1) (le32 a0 a1 a2 a3) (le16 c0 c1))
  | 0x05, [a0, a1, a2, a3, o0, o1, c0, c1] => some (.pmaWrite (le32 a0 a1 a2 a3) (le16 o0 o1) (le16 c0 c1))
  | 0x0C, [d0, d1, d2, d3] => do
      let d ← driverOfWord (le32 d0 d1 d2 d3)
      some (.coreInit d)
  | 0x20, [c] => if causeOk c then some (.stallEp0 c) else none
  | _, _ => none

/-- How many argument bytes the command of an assigned id has; an unassigned id has none (R102). -/
def callArgBytes (id : Nat) : Option Nat :=
  match id with
  | 0x01 => some 8 | 0x02 => some 10 | 0x03 => some 0 | 0x04 => some 8 | 0x05 => some 8
  | 0x06 => some 12 | 0x07 => some 6 | 0x08 => some 8 | 0x09 => some 8 | 0x0A => some 10
  | 0x0B => some 1 | 0x0C => some 4
  | 0x10 => some 8 | 0x11 => some 4 | 0x12 => some 6 | 0x13 => some 6 | 0x14 => some 8
  | 0x15 => some 1 | 0x16 => some 2 | 0x17 => some 2 | 0x18 => some 2 | 0x19 => some 3
  | 0x1A => some 1 | 0x1B => some 1 | 0x1C => some 2
  | 0x20 => some 1
  | _ => none

/-- The command-call decode (R102). -/
def decodeCall : List Byte → Except DecodeError Instr
  | [] => .error .badArguments
  | id :: as =>
    match callArgBytes id.toNat with
    | none => .error (.unassignedCall id)
    | some _ =>
      match decodeCoreCall id.toNat as, decodeTableCall id.toNat as, decodeEpCall id.toNat as with
      | some i, _, _ => .ok i
      | none, some i, _ => .ok i
      | none, none, some i => .ok i
      | none, none, none => .error .badArguments

/-! ## TOKEN (R103).  The record layout is the model's (log 3): PID, address byte, endpoint byte, data bytes; SOF carries
its frame number in two bytes. -/

/-- The token PIDs of R103. -/
def pidOut : Byte := 0xE1
def pidIn : Byte := 0x69
def pidSof : Byte := 0xA5
def pidSetup : Byte := 0x2D

/-- The host-transaction decode (R103, R104). -/
def decodeToken : List Byte → Except DecodeError Instr
  | [] => .error .badToken
  | pid :: rest =>
    if pid = pidSetup ∨ pid = pidOut ∨ pid = pidIn then
      match rest with
      | a :: e :: data =>
        if a.getLsbD 7 = false ∧ e.extractLsb' 4 4 = 0 then
          if pid = pidSetup then .ok (.hostSetup (a.extractLsb' 0 7) (e.extractLsb' 0 4) data)
          else if pid = pidOut then .ok (.hostOut (a.extractLsb' 0 7) (e.extractLsb' 0 4) data)
          else if data = [] then .ok (.hostIn (a.extractLsb' 0 7) (e.extractLsb' 0 4))
          else .error .badToken
        else .error .badToken
      | _ => .error .badToken
    else if pid = pidSof then
      match rest with
      | [f0, f1] =>
        if f1.extractLsb' 3 5 = 0 then .ok (.hostSof ((le16 f0 f1).extractLsb' 0 11)) else .error .badToken
      | _ => .error .badToken
    else .error (.noStepPid pid)

/-- The instruction of a bus event (R103). -/
def decodeEvent : BusEvent → Instr
  | .busReset => .hostBusReset
  | .suspend => .hostSuspend
  | .resume => .hostResume

/-! ## The decoder -/

/-- The decoder of the five input kinds (R90), total. -/
def decode : Enc → Except DecodeError Instr
  | .setup8 bs =>
    match parseSetup bs with
    | some p => .ok (decodeSetup p)
    | none => .error .setupLength
  | .istr16 w =>
    match decodeIstr w with
    | some i => .ok i
    | none => .error .noEvent
  | .stage3 w =>
    match decodeStage w with
    | some i => .ok i
    | none => .error .badStage
  | .call8 bs => decodeCall bs
  | .token bs => decodeToken bs
  | .event e => .ok (decodeEvent e)

/-! ## The encoder -/

/-- Two bytes, low first (R64). -/
def bytes16 (v : Half) : List Byte := [byteAt v 0, byteAt v 1]

/-- Four bytes, low first (R64). -/
def bytes32 (v : Addr) : List Byte := [byteAt v 0, byteAt v 1, byteAt v 2, byteAt v 3]

/-- A token with an address and an endpoint (R103). -/
def encodeToken (pid : Byte) (a : BitVec 7) (e : BitVec 4) (data : List Byte) : Enc :=
  .token (pid :: a.setWidth 8 :: e.setWidth 8 :: data)

/-- The encoded form of an instruction (R91, R93, R99 to R103). -/
def encode : Instr → Enc
  | .getStatus r => .setup8 (r.packet 0 0).bytes
  | .clearFeature r => .setup8 (r.packet 0 1).bytes
  | .setFeature r => .setup8 (r.packet 0 3).bytes
  | .setAddress r => .setup8 (r.packet 0 5).bytes
  | .getDescriptor r => .setup8 (r.packet 0 6).bytes
  | .setDescriptor r => .setup8 (r.packet 0 7).bytes
  | .getConfiguration r => .setup8 (r.packet 0 8).bytes
  | .setConfiguration r => .setup8 (r.packet 0 9).bytes
  | .getInterface r => .setup8 (r.packet 0 10).bytes
  | .setInterface r => .setup8 (r.packet 0 11).bytes
  | .synchFrame r => .setup8 (r.packet 0 12).bytes
  | .stdUndefined b r => .setup8 (r.packet 0 b).bytes
  | .classRequest b r => .setup8 (r.packet 1 b).bytes
  | .vendorRequest b r => .setup8 (r.packet 2 b).bytes
  | .reservedType b r => .setup8 (r.packet 3 b).bytes
  | .ctrEp0Out => .istr16 0x8010
  | .ctrEp0In => .istr16 0x8000
  | .ctrEpnOut n => .istr16 (0x801#12 ++ n)
  | .ctrEpnIn n => .istr16 (0x800#12 ++ n)
  | .evReset => .istr16 0x0400
  | .evWkup => .istr16 0x1000
  | .evSusp => .istr16 0x0800
  | .evSof => .istr16 0x0200
  | .stageSetup => .stage3 0
  | .stageDataIn => .stage3 1
  | .stageDataOut => .stage3 2
  | .stageStatusIn => .stage3 3
  | .stageStatusOut => .stage3 4
  | .prepareDataIn b c => .call8 (0x01 :: (bytes32 b ++ bytes32 c))
  | .prepareDataOut b c f => .call8 (0x02 :: (bytes32 b ++ bytes32 c ++ bytes16 (cbWord f)))
  | .prepareStatusIn => .call8 [0x03]
  | .pmaRead o d c => .call8 (0x04 :: (bytes16 o ++ bytes32 d ++ bytes16 c))
  | .pmaWrite a o c => .call8 (0x05 :: (bytes32 a ++ bytes16 o ++ bytes16 c))
  | .registerEndpoint e t x r c i o =>
      .call8 (0x06 :: e :: byteOfCode t.code :: (bytes16 x ++ bytes16 r ++ bytes16 c ++ bytes16 (cbWord i) ++ bytes16 (cbWord o)))
  | .registerEndpointTx e t x i => .call8 (0x07 :: e :: byteOfCode t.code :: (bytes16 x ++ bytes16 (cbWord i)))
  | .registerEndpointRx e t r c o =>
      .call8 (0x08 :: e :: byteOfCode t.code :: (bytes16 r ++ bytes16 c ++ bytes16 (cbWord o)))
  | .registerEndpointDoubleTx e t x y i =>
      .call8 (0x09 :: e :: byteOfCode t.code :: (bytes16 x ++ bytes16 y ++ bytes16 (cbWord i)))
  | .registerEndpointDoubleRx e t x y c o =>
      .call8 (0x0A :: e :: byteOfCode t.code :: (bytes16 x ++ bytes16 y ++ bytes16 c ++ bytes16 (cbWord o)))
  | .unregisterEndpoint e => .call8 [0x0B, e]
  | .coreInit d => .call8 (0x0C :: bytes32 (driverWord d))
  | .epConfigure n t x r c => .call8 (0x10 :: n :: byteOfCode t.code :: (bytes16 x ++ bytes16 r ++ bytes16 c))
  | .epConfigureTx n t x => .call8 (0x11 :: n :: byteOfCode t.code :: bytes16 x)
  | .epConfigureRx n t r c => .call8 (0x12 :: n :: byteOfCode t.code :: (bytes16 r ++ bytes16 c))
  | .epConfigureDoubleTx n t x y => .call8 (0x13 :: n :: byteOfCode t.code :: (bytes16 x ++ bytes16 y))
  | .epConfigureDoubleRx n t x y c =>
      .call8 (0x14 :: n :: byteOfCode t.code :: (bytes16 x ++ bytes16 y ++ bytes16 c))
  | .epClearConfiguration n => .call8 [0x15, n]
  | .epSetStall n d => .call8 [0x16, n, d.code]
  | .epClearStall n d => .call8 [0x17, n, d.code]
  | .epGetStall n d => .call8 [0x18, n, d.code]
  | .epSetStatus n d s => .call8 [0x19, n, d.code, byteOfCode s.code]
  | .epSetKind n => .call8 [0x1A, n]
  | .epClearKind n => .call8 [0x1B, n]
  | .epClearTransferComplete n d => .call8 [0x1C, n, d.code]
  | .stallEp0 c => .call8 [0x20, c]
  | .hostSetup a e d => encodeToken pidSetup a e d
  | .hostOut a e d => encodeToken pidOut a e d
  | .hostIn a e => encodeToken pidIn a e []
  | .hostSof f => .token (pidSof :: bytes16 (f.setWidth 16))
  | .hostBusReset => .event .busReset
  | .hostSuspend => .event .suspend
  | .hostResume => .event .resume

/-! ## The opcode table's words -/

/-- `n` bytes of a number, lowest first. -/
def leBytes : Nat → Nat → List Byte
  | 0, _ => []
  | n + 1, w => BitVec.ofNat 8 w :: leBytes n (w / 256)

/-- Does a setup packet decode to a row before `STD_UNDEFINED`, or to another type's row (R99)? -/
def isDefinedRequest : Instr → Bool
  | .stdUndefined _ _ => false
  | _ => true

/-- Which input kind a word of the opcode table is read as.  The spec's five formats carry no mark that tells them
apart, and words of different formats coincide; this order is the model's (log 4).  Eight bits: stage values, then the
request types 1 to 3, then assigned command ids, then token PIDs, else the low byte of a setup packet.  Sixteen bits: a
setup packet with a defined request, then an event pattern, else a setup packet. -/
def tableEnc (nbits w : Nat) : Enc :=
  if nbits ≤ 8 then
    if w < 5 then .stage3 (BitVec.ofNat 3 w)
    else if w = 0x20 ∨ w = 0x40 ∨ w = 0x60 then .setup8 (leBytes 8 w)
    else match callArgBytes w with
      | some k => .call8 (BitVec.ofNat 8 w :: List.replicate k 0)
      | none =>
        if w = 0x2D ∨ w = 0xE1 ∨ w = 0x69 ∨ w = 0xA5 then
          .token (leBytes 3 w)
        else .setup8 (leBytes 8 w)
  else if nbits ≤ 16 then
    match parseSetup (leBytes 8 w) with
    | none => .setup8 (leBytes 8 w)
    | some p =>
      if isDefinedRequest (decodeSetup p) then .setup8 (leBytes 8 w)
      else match decodeIstr (BitVec.ofNat 16 w) with
        | some _ => .istr16 (BitVec.ofNat 16 w)
        | none => .setup8 (leBytes 8 w)
  else .setup8 (leBytes 8 w)

/-- The instruction that the decoder reads from a word of the opcode table, the words above `nbits` zero. -/
def decodeTableWord (nbits w : Nat) : Option Instr :=
  match decode (tableEnc nbits w) with
  | .ok i => some i
  | .error _ => none

end Sys2Proof
end

