-- ==== Sys2Proof/Machine/Params.lean ====
section
/-! DEFINITION. The parameters at the values this spec takes (R7), and what makes parameters legal. -/

namespace Sys2Proof

/-- The default `HANDLER_TABLE` (R252). -/
def HandlerTable.standard : HandlerTable where
  default := [.setAddress, .getDescriptor]
  addressed := [.getStatus, .clearFeature, .setFeature, .setAddress, .getDescriptor, .setDescriptor,
    .getConfiguration, .setConfiguration]
  configured := [.getStatus, .clearFeature, .setFeature, .getDescriptor, .setDescriptor, .getConfiguration,
    .setConfiguration, .getInterface, .setInterface, .synchFrame, .classPoint, .vendorPoint]
  suspended := []

/-- The parameters at the values this spec takes (R7).  The mapped CPU memory is the whole address space and
`STATUS_BUF_ADDR` the example's value (logs 6, 7).  So an access at a bus address of the register block or of the packet
memory (R344) is one to plain CPU memory: the model's choice (log 6). -/
def Params.standard : Params where
  addrBits := 32
  pmaBytes := 1024
  mps0 := 64
  btableOff := 0x000
  ep0RxOff := 0x040
  ep0TxOff := 0x080
  dataInRxMulti := .nak
  shortOutEnds := false
  handlers := HandlerTable.standard
  usbBase := 0x40006800
  pmaBase := 0x40006C00
  statusBufAddr := 0x20000100
  cpuMap := [{ base := 0, size := 0x100000000 }]

/-- The slots of a device state that are not null (R252). -/
def HandlerTable.slots (t : HandlerTable) : DevState → List Point
  | .default => t.default
  | .addressed => t.addressed
  | .configured => t.configured
  | .suspended => t.suspended

/-- `HANDLER_TABLE[state][point] = 1` (R252). -/
def Params.legalPoint (c : Params) (d : DevState) (p : Point) : Bool := (c.handlers.slots d).contains p

/-- `Region` holds the address. -/
def Region.has (g : Region) (a : Nat) : Bool := decide (g.base ≤ a) && decide (a < g.base + g.size)

/-- The platform maps the CPU address, one of `ADDR_BITS` bits (R7, R61). -/
def Params.mapped (c : Params) (a : Addr) : Bool :=
  decide (a.toNat < 2 ^ c.addrBits) && c.cpuMap.any (·.has a.toNat)

/-- The values that R7, R15, R21, R30 and R63 allow the parameters: addresses of at most 32 bits, an even packet-memory size, a
legal `MPS0`, the descriptor table at a multiple of 8 inside the packet memory, and the two EP0 buffers even, inside it and
apart from each other and from the table; `P_DATAIN_RX_MULTI` is NAK or STALL; `status_buf` is mapped. -/
def Params.legal (c : Params) : Bool :=
  decide (c.addrBits ≤ 32) && decide (c.pmaBytes % 2 = 0) && decide (c.pmaBytes ≤ 65536)
  && (decide (c.mps0 = 8) || decide (c.mps0 = 16) || decide (c.mps0 = 32) || decide (c.mps0 = 64))
  && decide (c.btableOff.toNat % 8 = 0) && decide (c.ep0RxOff.toNat % 2 = 0) && decide (c.ep0TxOff.toNat % 2 = 0)
  && decide (c.btableOff.toNat + 64 ≤ c.pmaBytes)
  && decide (c.ep0RxOff.toNat + c.mps0 ≤ c.pmaBytes) && decide (c.ep0TxOff.toNat + c.mps0 ≤ c.pmaBytes)
  && (decide (c.ep0RxOff.toNat + c.mps0 ≤ c.ep0TxOff.toNat) || decide (c.ep0TxOff.toNat + c.mps0 ≤ c.ep0RxOff.toNat))
  && (decide (c.btableOff.toNat + 64 ≤ c.ep0TxOff.toNat) || decide (c.ep0TxOff.toNat + c.mps0 ≤ c.btableOff.toNat))
  && (decide (c.btableOff.toNat + 64 ≤ c.ep0RxOff.toNat) || decide (c.ep0RxOff.toNat + c.mps0 ≤ c.btableOff.toNat))
  && (c.dataInRxMulti == .nak || c.dataInRxMulti == .stall)
  && c.mapped c.statusBufAddr && c.mapped (c.statusBufAddr + 1)

end Sys2Proof
end

