-- ==== Sys2Proof/Machine/State.lean ====
section
/-! DEFINITION. The state of the machine as plain data: the block's own state (R20 to R32), the peripheral registers it
shares with the SIE (R34 to R47), the two memories (R50), and the model's own fields that say which agent moves next and
what the environment answers (R12, R70, R106, R250). -/

namespace Sys2Proof.Machine

/-! ## Why a step can stop -/

/-- The causes of a fatal assertion (R322). -/
inductive FatalCause where
  | epRange
  | epType
  | pmaRange
  | nullCallback
  | noHandler
  | nullDriverCb
deriving DecidableEq, Repr

/-- The model faults of R324, and the halt of R323. -/
inductive Fault where
  /-- `BAD_STAGE`: raised by a step that finds `ctx.stage` at 5 to 7 (R101, R210). Safe. -/
  | badStage
  /-- `SETUP_NOT_LATCHED`: raised by a read of the setup latch outside a dispatch (R24). Safe. -/
  | setupNotLatched
  /-- `PMA_MISALIGNED`: raised by `pma_read` and `pma_write` on an odd offset (R140, R141). Safe. -/
  | pmaMisaligned
  /-- `PMA_BOUNDS`: raised by any packet-memory access past `PMA_BYTES` (R67, R294). Safe. -/
  | pmaBounds
  /-- `OWNERSHIP`: raised by a block write to packet memory the SIE owns (R72). Safe. -/
  | ownership
  /-- `CPU_BUS`: raised by a CPU-memory access outside the mapped regions (R61). Safe. -/
  | cpuBus
  /-- `BAD_EP_ID`: raised by a completion on an endpoint above 7 (R331). Safe. -/
  | badEpId
  /-- `BAD_EP`: raised by an endpoint-register operation on an endpoint above 7 (R155 to R167). Safe. -/
  | badEp
  /-- `PREPARE_CONTEXT`: raised by a response outside a dispatch, or a second one in it (R228). Safe. -/
  | prepareContext
  /-- `FOREGROUND_WRITE`: raised by a foreground write with the interrupt not masked (R341). Safe. -/
  | foregroundWrite
  /-- `Halted(c)`: raised by every step after a fatal assertion (R323), an SIE step's line too (log 15). Safe. -/
  | halted (c : FatalCause)
deriving DecidableEq, Repr

/-- The steps that are absent from the model (R325), and inputs that are no instruction. -/
inductive Refusal where
  /-- Raised by an arm of `exec` whose instruction has no meaning yet. Safe. -/
  | notModelled (mnemonic : String)
  /-- RF1: raised by an OUT or IN transaction on a double-buffered or isochronous endpoint (R302). Safe. -/
  | doubleBuffered
  /-- RF2: raised by a step that fetches an unassigned command id (R102). Safe. -/
  | unassignedCall (id : Byte)
  /-- RF3: raised by a driver call whose action is outside the list of R250. Safe. -/
  | driverAction
  /-- Raised by a step that is told to start an invocation where R328 says none can start. Safe. -/
  | isrNotDue
  /-- Raised by a step that fetches a record that is no encoded input of its kind. Safe. -/
  | malformedRecord
  /-- Raised by a foreground access to a bus address that is none of the block's registers (R48, R62). Safe. -/
  | outsideBlock
deriving DecidableEq, Repr

/-! ## Pieces of the state -/

/-- A memory: the bytes that differ from what an unlisted address reads as, in rising order of address. -/
abbrev Memory := List Host.Cell

/-- The control-transfer context (R21); `stage` is the 3-bit stage register (R22). -/
structure Ctx where
  buffer : Addr
  remaining : Addr
  stage : BitVec 3
  completion : Option CbId
deriving DecidableEq, Repr

/-- The device state, its saved copy (R25) and the pending address (R27). -/
structure Dev where
  state : DevState
  previous : DevState
  addrPending : Bool
  pendingAddr : BitVec 7
deriving DecidableEq, Repr

/-- The buffering modes of an endpoint-table entry (R28). -/
inductive EpMode where
  | unregistered
  | single
  | txOnly
  | rxOnly
  | doubleTx
  | doubleRx
deriving DecidableEq, Repr

/-- An endpoint-table entry with its callbacks (R28). -/
structure EptEntry where
  mode : EpMode
  ty : EpType
  txAddr : Half
  rxAddr : Half
  rxCount : Half
  inCb : Option CbId
  outCb : Option CbId
deriving DecidableEq, Repr

/-- The event that the endpoint-0 callback is called with (R210). -/
structure Ev where
  dir : Dir
  setup : Bool
deriving DecidableEq, Repr

/-- A host transaction or bus event (R103): one atomic step of the SIE/host agent (R290). -/
inductive Token where
  | setup (addr : BitVec 7) (ep : BitVec 4) (data : List Byte)
  | out (addr : BitVec 7) (ep : BitVec 4) (data : List Byte)
  | inn (addr : BitVec 7) (ep : BitVec 4)
  | sof (frame : BitVec 11)
  | busReset
  | suspend
  | resume
deriving DecidableEq, Repr

/-- What the device puts on the bus in answer to a token (R292 to R295). -/
inductive BusAnswer where
  | noAnswer
  | ack
  | nak
  | stall
  | data (data1 : Bool) (bytes : List Byte)
deriving DecidableEq, Repr

/-- The driver capabilities (R250). -/
inductive Cap where
  | isSelfpowered
  | setRemoteWakeup
  | getRemoteWakeup
  | isInterfaceValid
  | isEndpointValid
  | clearStall
  | deviceDescriptor
  | configurationDescriptor
  | stringDescriptor
  | bosDescriptor
  | setDescriptor
  | getConfiguration
  | isConfigurationValid
  | setConfiguration
  | getInterface
  | setInterface
  | classRequest
  | vendorRequest
  | suspend
  | wakeup
  | startOfFrame
deriving DecidableEq, Repr

/-- What the block calls outside itself: a driver capability (R250) or a completion callback (R224, R332). -/
inductive Callee where
  | cap (c : Cap)
  | callback (id : CbId)
deriving DecidableEq, Repr

/-- One thing a driver call does besides answering (R250): read a byte of CPU memory, or call an operation. -/
inductive DrvAct where
  | readCpu (a : Addr)
  | call (i : Instr)
deriving DecidableEq, Repr

/-- What the next call of `callee` answers and does (a `DRV` line of R106): a bool is bit 0 of `a`, a byte bits 7:0, a
descriptor the pair `(a, n)`. -/
structure DrvAnswer where
  callee : Callee
  a : Addr
  n : Addr
  acts : List DrvAct
deriving DecidableEq, Repr

/-- A call that the block made outside itself, with its arguments. -/
structure DrvCall where
  callee : Callee
  args : List Half
deriving DecidableEq, Repr

/-- What the foreground reads by its name (R341): a word of the packet memory by its index (R10), a byte of CPU memory (R61), or a
piece of the block's state (R20 to R32). -/
inductive Shared where
  | pmaWord (k : Nat)
  | cpuByte (a : Addr)
  | ctxBuffer
  | ctxRemaining
  | ctxStage
  | ctxCompletion
  | setup
  | devState
  | devPrevious
  | addrPending
  | pendingAddr
  | eptMode (n : Fin 8)
  | eptType (n : Fin 8)
  | eptTxAddr (n : Fin 8)
  | eptRxAddr (n : Fin 8)
  | eptRxCount (n : Fin 8)
  | eptCallback (n : Fin 8) (dir : Dir)
  | fatal
  | inIsr
  | irqMasked
deriving DecidableEq, Repr

/-- What such a read gives, in the form that the state has it. -/
inductive SharedValue where
  | addr (v : Addr)
  | half (v : Half)
  | byte (v : Byte)
  | stage (v : BitVec 3)
  | callback (v : Option CbId)
  | packet (v : SetupPacket)
  | devState (v : DevState)
  | devAddr (v : BitVec 7)
  | flag (v : Bool)
  | mode (v : EpMode)
  | type (v : EpType)
  | cause (v : Option FatalCause)
deriving DecidableEq, Repr

/-- One line of the trace that the machine runs (R106), and the foreground's own steps (R341). -/
inductive Item where
  /-- `HOST`: a token record (R103). -/
  | host (bytes : List Byte)
  /-- `HOST BUSRESET`, `SUSPEND`, `RESUME`. -/
  | event (e : BusEvent)
  /-- `CALL`: a command record (R102). -/
  | call (bytes : List Byte)
  /-- `ISR`: the ISR agent starts an invocation. -/
  | isr
  /-- `DRV`: the driver's next answer. -/
  | drv (d : DrvAnswer)
  /-- The SIE steps that the environment puts before each of the block's atomic steps to come (R70). -/
  | interleave (w : List (List Token))
  /-- The foreground masks the interrupt (R341). -/
  | mask
  /-- The foreground unmasks it (R341). -/
  | unmask
  /-- The foreground writes a peripheral register at a bus address (R62, R341). -/
  | busWrite (a : Addr) (v : Addr)
  /-- The foreground reads a peripheral register at a bus address (R62, R341). -/
  | busRead (a : Addr)
  /-- The foreground reads a piece of shared state by its name (R341). -/
  | read (x : Shared)
  /-- The foreground writes a byte of CPU memory of its own (R61, R374). -/
  | store (a : Addr) (v : Byte)
deriving DecidableEq, Repr

/-! ## The state -/

/-- The machine's state.  The fields from `trace` on are the model's own. -/
structure State where
  /-- The parameters of R7. -/
  cfg : Params
  /-- The control-transfer context (R21). -/
  ctx : Ctx
  /-- The setup latch (R24); none while unwritten. -/
  setup : Option SetupPacket
  /-- A dispatch is running (R228, R253). -/
  inDispatch : Bool
  /-- A response has been given in it (R228, R253). -/
  responded : Bool
  /-- The device state and the pending address (R25, R27). -/
  dev : Dev
  /-- The endpoint table (R28). -/
  ept : Vector EptEntry 8
  /-- `fatal` and `fatal_cause` (R31).  That no cause is held while `fatal = 0` is the model's choice (log 29). -/
  fatal : Option FatalCause
  /-- `in_isr` (R32). -/
  inIsr : Bool
  /-- `irq_masked` (R32). -/
  irqMasked : Bool
  /-- The invocation's snapshot of `ISTR` (R329), less the conditions already tested. -/
  isrPending : Half
  /-- `handled` of R330. -/
  isrHandled : Half
  /-- The endpoint-0 callback is due (R331): the next step runs the stage that `ctx.stage` selects. -/
  stageDue : Bool
  /-- Its event (R210). -/
  ev : Ev
  /-- The installed driver's non-null capabilities (R33, R362). -/
  driver : DriverFlags
  /-- The endpoint registers (R34). -/
  epr : Vector Half 8
  /-- The write-0-to-clear flags of `ISTR` (R39); the other fields are computed at a read (R41). -/
  istr : Half
  /-- `CNTR` (R42). -/
  cntr : Half
  /-- `DADDR` (R43). -/
  daddr : Byte
  /-- `BTABLE` (R44). -/
  btable : Half
  /-- The packet memory, by byte offset (R60). -/
  pma : Memory
  /-- CPU memory, by byte address (R61), `status_buf` of R30 among it. -/
  cpu : Memory
  /-- What a command call last returned to its caller (R158, R165). -/
  ret : Half
  /-- What the foreground last read at a bus address (R62). -/
  busData : Addr
  /-- What the foreground last read by its name (R341). -/
  seen : Option SharedValue
  /-- The lines still to run (R106). -/
  trace : List Item
  /-- The SIE steps that fall before each of the block's next atomic steps (R70). -/
  window : List (List Token)
  /-- The driver's answers to come (R106 `DRV`, R250). -/
  answers : List DrvAnswer
  /-- The calls made outside the block, newest first (R250). -/
  calls : List DrvCall
  /-- What the device has answered on the bus, newest first (R292 to R295). -/
  bus : List BusAnswer
  /-- The labels of the stalls of endpoint 0, newest first: the trace annotations of R321 and R346. -/
  stalls : List Byte
  /-- How many free values have been drawn. -/
  draws : Nat
deriving DecidableEq, Repr

/-! ## Reset -/

/-- The reset value of the context (R21), what *cleared* means. -/
def Ctx.cleared : Ctx := { buffer := 0, remaining := 0, stage := 0, completion := none }

/-- The reset value of a table entry (R28). -/
def EptEntry.unregistered : EptEntry :=
  { mode := .unregistered, ty := .bulk, txAddr := 0, rxAddr := 0, rxCount := 0, inCb := none, outCb := none }

/-- The machine at power-on (R360, R361); the fields for which R361 gives no value stand at the reset values of R21 to
R28 (log 5).  `fatal` is 0 (R31) and no cause is held, where R31 gives none: the model's choice (log 29). -/
def State.reset : State where
  cfg := Params.standard
  ctx := Ctx.cleared
  setup := none
  inDispatch := false
  responded := false
  dev := { state := .default, previous := .default, addrPending := false, pendingAddr := 0 }
  ept := Vector.replicate 8 EptEntry.unregistered
  fatal := none
  inIsr := false
  irqMasked := false
  isrPending := 0
  isrHandled := 0
  stageDue := false
  ev := { dir := .dirOut, setup := false }
  driver := 0
  epr := Vector.replicate 8 0
  istr := 0
  cntr := 0x0003
  daddr := 0
  btable := 0
  pma := []
  cpu := []
  ret := 0
  busData := 0
  seen := none
  trace := []
  window := []
  answers := []
  calls := []
  bus := []
  stalls := []
  draws := 0

end Sys2Proof.Machine
end

