-- ==== Sys2Proof/Machine/Memory.lean ====
section
/-! DEFINITION. Memories: a byte read, a byte write that keeps the canonical form, and the word and string accesses built
from them with the byte order of R64. -/

namespace Sys2Proof.Machine

/-- What an address that nothing has written reads as.  DESIGN CHOICE (log 1): zero, in the packet memory and in CPU
memory; the spec leaves both any value (R60, U1, U11). -/
def Memory.unlisted : Byte := 0

/-- The byte at an address. -/
def Memory.read : Memory → Nat → Byte
  | [], _ => Memory.unlisted
  | (k, v) :: m, a => if k = a then v else Memory.read m a

/-- `m` with the entry for `a` in its place. -/
def Memory.insert (a : Nat) (v : Byte) : Memory → Memory
  | [] => [(a, v)]
  | (k, w) :: m => if a < k then (a, v) :: (k, w) :: m else if a = k then (a, v) :: m else (k, w) :: Memory.insert a v m

/-- `m` without an entry for `a`. -/
def Memory.erase (a : Nat) : Memory → Memory
  | [] => []
  | (k, w) :: m => if a = k then Memory.erase a m else (k, w) :: Memory.erase a m

/-- The byte write. -/
def Memory.write (m : Memory) (a : Nat) (v : Byte) : Memory :=
  if v = Memory.unlisted then Memory.erase a m else Memory.insert a v m

/-- The address lies above the bound, if there is one. -/
def Memory.above : Option Nat → Nat → Bool
  | none, _ => true
  | some l, k => decide (l < k)

/-- Every entry lies above `lo`, addresses rise strictly, no entry equals what an unlisted address reads as. -/
def Memory.wfFrom : Option Nat → Memory → Bool
  | _, [] => true
  | lo, (k, v) :: m => Memory.above lo k && (v != Memory.unlisted) && Memory.wfFrom (some k) m

/-- The canonical form. -/
def Memory.wf (m : Memory) : Bool := Memory.wfFrom none m

/-- The 16-bit word of index `k`: the byte at offset `2k` is its low byte (R64). -/
def Memory.word (m : Memory) (k : Nat) : Half := le16 (m.read (2 * k)) (m.read (2 * k + 1))

/-- The write of a 16-bit word (R65). -/
def Memory.writeWord (m : Memory) (k : Nat) (v : Half) : Memory :=
  (m.write (2 * k) (byteAt v 0)).write (2 * k + 1) (byteAt v 1)

/-- `n` bytes from an address on. -/
def Memory.bytes (m : Memory) (a : Nat) : Nat → List Byte
  | 0 => []
  | n + 1 => m.read a :: Memory.bytes m (a + 1) n

/-- The write of a byte string. -/
def Memory.writeBytes (m : Memory) (a : Nat) : List Byte → Memory
  | [] => m
  | b :: bs => Memory.writeBytes (m.write a b) (a + 1) bs

end Sys2Proof.Machine
end

