-- ==== Sys2Proof/Machine/Flags.lean ====
section
/-! DEFINITION. The fields of the peripheral's registers (R34 to R47), the register write rules (R40, R152), the
three-term formula (R153), the interrupt line (R327), and buffer ownership (R72). -/

namespace Sys2Proof.Machine

/-! ## The endpoint register (R34) -/

/-- The masks of R34 and R150. -/
def plainMask : Half := 0x070F
def ctrMask : Half := 0x8080
def toggleMask : Half := 0x7070
def setupBit : Half := 0x0800
def kindBit : Half := 0x0100

/-- `STAT_dir`'s mask (R34). -/
def statMask : Dir → Half
  | .dirIn => 0x0030
  | .dirOut => 0x3000

/-- `DTOG_dir`'s mask (R34). -/
def dtogMask : Dir → Half
  | .dirIn => 0x0040
  | .dirOut => 0x4000

/-- `CTR_dir`'s mask (R34). -/
def ctrBit : Dir → Half
  | .dirIn => 0x0080
  | .dirOut => 0x8000

/-- A status at its direction's position. -/
def statAt : Dir → Stat → Half
  | .dirIn, s => s.code.setWidth 16 <<< 4
  | .dirOut, s => s.code.setWidth 16 <<< 12

/-- `STAT_dir`. -/
def statOf : Dir → Half → Stat
  | .dirIn, r => Stat.ofCode (r.extractLsb' 4 2)
  | .dirOut, r => Stat.ofCode (r.extractLsb' 12 2)

/-- `EP_TYPE`. -/
def typeOf (r : Half) : EpType := EpType.ofCode (r.extractLsb' 9 2)

/-- `EA`. -/
def eaOf (r : Half) : BitVec 4 := r.extractLsb' 0 4

/-- `EP_KIND`. -/
def kindOf (r : Half) : Bool := r.getLsbD 8

/-- `SETUP`. -/
def setupOf (r : Half) : Bool := r.getLsbD 11

/-- `CTR_dir`. -/
def ctrOf : Dir → Half → Bool
  | .dirIn, r => r.getLsbD 7
  | .dirOut, r => r.getLsbD 15

/-- `DTOG_TX`. -/
def dtogTx (r : Half) : Bool := r.getLsbD 6

/-- The hardware's write rule (R152): the register held `r` and `w` is written.  A data toggle whose bit in `w` is 0 stands, so
in the window of R371 (b)'s example (0x9280 over an arrived OUT) `DTOG_RX` stays as the SIE has flipped it, where the example
says that it is flipped back: DEDUCED from R152 and R154 (log 33). -/
def eprWrite (r w : Half) : Half :=
  (w &&& plainMask) ||| ((r ^^^ w) &&& toggleMask) ||| (r &&& w &&& ctrMask) ||| (r &&& setupBit)

/-- The three-term formula (R153): `f` the touched toggle fields, `d` their desired values, `v` the desired plain bits,
`c` the write-clear bits to clear. -/
def rmwWord (snap f d v c : Half) : Half :=
  ((snap ^^^ ((d &&& f) ||| ((snap ^^^ v) &&& plainMask))) &&& (plainMask ||| f)) ||| (ctrMask &&& ~~~c)

/-- The plain bits of a configured endpoint (R162 to R167): `EP_TYPE`, `EP_KIND`, and `EA = n`. -/
def plainBits (ty : EpType) (kind : Bool) (n : Fin 8) : Half :=
  (ty.code.setWidth 16 <<< 9) ||| ((BitVec.ofBool kind).setWidth 16 <<< 8) ||| BitVec.ofNat 16 n.val

/-- A value with the bits of `mask` taken from `v`: what the SIE does to a register. -/
def putBits (r mask v : Half) : Half := (r &&& ~~~mask) ||| (v &&& mask)

/-- The endpoint register after an accepted SETUP (R292): `SETUP` and `CTR_RX` set, both directions NAK, both toggles
drawn. -/
def afterSetup (r : Half) (togs : BitVec 2) : Half :=
  putBits (putBits r 0xB830 0xA820) 0x4040
    (((togs.extractLsb' 0 1).setWidth 16 <<< 14) ||| ((togs.extractLsb' 1 1).setWidth 16 <<< 6))

/-- The endpoint register after an accepted OUT (R293): `SETUP` cleared, `CTR_RX` set, `STAT_RX` NAK, `DTOG_RX`
flipped. -/
def afterOut (r : Half) : Half := putBits r 0xB800 0xA000 ^^^ 0x4000

/-- The endpoint register after a completed IN (R294): `CTR_TX` set, `STAT_TX` NAK, `DTOG_TX` flipped. -/
def afterIn (r : Half) : Half := putBits r 0x00B0 0x00A0 ^^^ 0x0040

/-- `double_buffered(n)` (R302). -/
def doubleBuffered (r : Half) : Bool :=
  typeOf r == .isochronous || (typeOf r == .bulk && kindOf r)

/-! ## ISTR, CNTR, DADDR, BTABLE (R39 to R44) -/

/-- The write-0-to-clear flags of `ISTR` (R40). -/
def istrFlagMask : Half := 0x7F80
def istrCtr : Half := 0x8000
def istrWkup : Half := 0x1000
def istrSusp : Half := 0x0800
def istrReset : Half := 0x0400
def istrSof : Half := 0x0200

/-- The `ISTR` write rule (R40). -/
def istrWrite (old w : Half) : Half := old &&& w &&& istrFlagMask

/-- The value that `core_init` leaves in `CNTR` (R42, R363): `CTRM`, `WKUPM`, `SUSPM`, `RESETM`, `SOFM`. -/
def cntrRun : Half := 0x9E00

/-- `BTABLE` bits 2:0 read as 0 (R44). -/
def btableWrite (w : Half) : Half := w &&& 0xFFF8

/-- `DADDR` with `EF = 1` (R43, R225). -/
def daddrOf (a : BitVec 7) : Byte := 0x80 ||| a.setWidth 8

/-! ## Endpoints in order -/

/-- Some endpoint satisfies `p`. -/
def anyEp (p : Fin 8 → Bool) : Bool := p 0 || p 1 || p 2 || p 3 || p 4 || p 5 || p 6 || p 7

/-- The endpoints that satisfy `p`, lowest first. -/
def listEps (p : Fin 8 → Bool) : List (Fin 8) := [0, 1, 2, 3, 4, 5, 6, 7].filter p

/-- The lowest endpoint that satisfies `p`. -/
def firstEp (p : Fin 8 → Bool) : Option (Fin 8) :=
  if p 0 then some 0 else if p 1 then some 1 else if p 2 then some 2 else if p 3 then some 3
  else if p 4 then some 4 else if p 5 then some 5 else if p 6 then some 6 else if p 7 then some 7 else none

/-! ## Computed `ISTR` fields and the interrupt line -/

/-- Endpoint `n` has a completion pending. -/
def pendingEp (s : State) (n : Fin 8) : Bool := ctrOf .dirOut s.epr[n] || ctrOf .dirIn s.epr[n]

/-- `ISTR.CTR` (R41). -/
def istrCtrNow (s : State) : Bool := anyEp (pendingEp s)

/-- The endpoint that `ISTR.EP_ID` reports, if one is pending: the one, or one of several by the draw (R41, U4). -/
def reportedEp (s : State) : Option (Fin 8) :=
  match listEps (pendingEp s) with
  | [] => none
  | [n] => some n
  | n :: ns => some ((n :: ns)[Config.epIdChoice s.draws % (n :: ns).length]?.getD n)

/-- What a read of `ISTR` returns (R41): the flags, and `CTR`, `DIR`, `EP_ID` computed; with no completion pending `DIR`
and `EP_ID` are any value (U5). -/
def istrRead (s : State) : Half :=
  (s.istr &&& istrFlagMask) |||
  (match reportedEp s with
   | some n => (if ctrOf .dirOut s.epr[n] then 0x8010 else 0x8000) ||| BitVec.ofNat 16 n.val
   | none => (Config.freeIstrLow s.draws).setWidth 16)

/-- The interrupt line (R327): some flag is set whose enable in `CNTR` is set; flags and enables stand at the same bit
positions. -/
def irqLine (s : State) : Bool :=
  ((s.istr &&& istrFlagMask) ||| (if istrCtrNow s then istrCtr else 0)) &&& s.cntr &&& 0xFF80 != 0

/-- The entry condition of an invocation (R328). -/
def entryDue (s : State) : Bool := irqLine s && !s.inIsr && !s.irqMasked && s.fatal.isNone

/-! ## Buffer descriptors (R45 to R47) -/

/-- The fields of a buffer-descriptor entry (R45). -/
inductive BdField where
  | addrTx
  | countTx
  | addrRx
  | countRx
deriving DecidableEq, Repr

/-- A field's word within its entry (R45). -/
def BdField.index : BdField → Nat
  | .addrTx => 0
  | .countTx => 1
  | .addrRx => 2
  | .countRx => 3

/-- The packet-memory word of a descriptor field (R45). -/
def bdIndex (c : Params) (n : Fin 8) (f : BdField) : Nat := (c.btableOff.toNat + 8 * n.val) / 2 + f.index

/-- A descriptor word as it is. -/
def bdWord (s : State) (n : Fin 8) (f : BdField) : Half := s.pma.word (bdIndex s.cfg n f)

/-- The byte offset that an address word names: bits 15:1, in units of two bytes (R45). -/
def bufOffset (w : Half) : Nat := 2 * (w.toNat / 2)

/-- `COUNT`, bits 9:0 (R46, R47). -/
def countOf (w : Half) : Nat := w.toNat % 1024

/-- `size(BL_SIZE, NUM_BLOCK)` of a `COUNT_RX` word (R46). -/
def rxSize (w : Half) : Nat :=
  if w.getLsbD 15 then 32 * ((w.extractLsb' 10 5).toNat + 1) else 2 * (w.extractLsb' 10 5).toNat

/-- A `COUNT_RX` word with its received count replaced (R292, R293). -/
def withCount (w : Half) (n : Nat) : Half := putBits w 0x03FF (BitVec.ofNat 16 n)

/-- The word that `encode_rx` writes (R46): `BL_SIZE`, `NUM_BLOCK`, and a zero count. -/
def encodeRx (c : Half) : Half :=
  if c.toNat ≤ 62 then BitVec.ofNat 16 ((c.toNat + 1) / 2 * 1024)
  else if c.toNat ≤ 1024 then BitVec.ofNat 16 (0x8000 + ((c.toNat + 31) / 32 - 1) * 1024)
  else (Config.encodeRxBeyond c).setWidth 16 <<< 10

/-! ## Ownership (R72) -/

/-- The SIE owns the endpoint's IN buffer and `COUNT_TX` (R72). -/
def txOwned (r : Half) : Bool := statOf .dirIn r == .valid

/-- The SIE owns the endpoint's OUT buffer and `COUNT_RX` (R72): while armed, and on a control endpoint also while a SETUP
may land. -/
def rxOwned (r : Half) : Bool :=
  statOf .dirOut r == .valid
  || (typeOf r == .control && !(statOf .dirOut r == .disabled) && !(ctrOf .dirOut r))

/-- Word `k` shares a byte with the `len` bytes from offset `a`. -/
def wordMeets (k a len : Nat) : Bool := decide (a < 2 * k + 2) && decide (2 * k < a + len)

/-- The SIE owns word `k` through endpoint `n` (R72). -/
def ownsThrough (s : State) (k : Nat) (n : Fin 8) : Bool :=
  (txOwned s.epr[n] && (k == bdIndex s.cfg n .countTx
    || wordMeets k (bufOffset (bdWord s n .addrTx)) (countOf (bdWord s n .countTx))))
  || (rxOwned s.epr[n] && (k == bdIndex s.cfg n .countRx
    || wordMeets k (bufOffset (bdWord s n .addrRx)) (rxSize (bdWord s n .countRx))))

/-- The SIE owns word `k`: a block write to it is `Fault(OWNERSHIP)` (R72). -/
def sieOwns (s : State) (k : Nat) : Bool := anyEp (ownsThrough s k)

end Sys2Proof.Machine
end

