-- ==== Sys2Proof/Machine/Operands.lean ====
section
/-! DEFINITION. Every operand form: the sub-fields of a request (R92, R94), the endpoint numbers and registration
arguments of the command port (R190), the driver's capabilities (R250), and the register addresses (R62). -/

namespace Sys2Proof.Machine

/-! ## Requests (R92, R94) -/

/-- `wIndex[7:0]`: the interface number. -/
def ifNumber (r : Req) : Byte := r.wIndex.extractLsb' 0 8

/-- `wIndex[3:0]`: the endpoint number (R267). -/
def targetNum (r : Req) : BitVec 4 := r.wIndex.extractLsb' 0 4

/-- `wIndex[7]`: the endpoint direction (R267). -/
def targetDir (r : Req) : Dir := if r.wIndex.getLsbD 7 then .dirIn else .dirOut

/-- `wValue[7:0]`: a configuration value, an alternate setting, or a descriptor index. -/
def valueLow (r : Req) : Byte := r.wValue.extractLsb' 0 8

/-- `wValue[15:8]`: the descriptor type. -/
def valueHigh (r : Req) : Byte := r.wValue.extractLsb' 8 8

/-- `wValue[6:0]`: the new device address (R258). -/
def newAddress (r : Req) : BitVec 7 := r.wValue.extractLsb' 0 7

/-- The four 16-bit words of a setup packet, as a driver call is handed them. -/
def packetArgs (p : SetupPacket) : List Half := [p.key, p.wValue, p.wIndex, p.wLength]

/-- A direction as a driver argument. -/
def dirArg (d : Dir) : Half := d.code.setWidth 16

/-! ## Callbacks -/

/-- `CONTROL_FSM`, the endpoint-0 callback (R29).  DESIGN CHOICE (log 30): the spec names this callback and gives it no number;
the model numbers it 1, so a callback of the driver's own with the id 1 would be the same id. -/
def controlFsm : CbId := 1

/-- The callback of a direction (R198). -/
def EptEntry.callback (e : EptEntry) : Dir → Option CbId
  | .dirIn => e.inCb
  | .dirOut => e.outCb

/-! ## Packets on the bus (R103) -/

/-- The data PIDs (R103). -/
def pidData0 : Byte := 0xC3
def pidData1 : Byte := 0x4B

/-- The handshake PIDs (R103). -/
def pidAck : Byte := 0xD2
def pidNak : Byte := 0x5A
def pidStall : Byte := 0x1E

/-- The PID of the packet that the device answers with (R103, R292 to R295); no answer is no packet. -/
def BusAnswer.pid : BusAnswer → Option Byte
  | .noAnswer => none
  | .ack => some pidAck
  | .nak => some pidNak
  | .stall => some pidStall
  | .data data1 _ => some (if data1 then pidData1 else pidData0)

/-- The bytes that the device puts on the bus in one answer: the PID and the data (R103; the CRC is not modelled). -/
def BusAnswer.packet (b : BusAnswer) : List Byte :=
  match b.pid, b with
  | some p, .data _ bytes => p :: bytes
  | some p, _ => [p]
  | none, _ => []

/-! ## Registration (R190) -/

/-- An IN buffer at `a`: even, and `a + 2 <= PMA_BYTES`. -/
def inWindowOk (c : Params) (a : Half) : Bool := decide (a.toNat % 2 = 0) && decide (a.toNat + 2 ≤ c.pmaBytes)

/-- An OUT buffer of `n` bytes at `a`: even, `n <= 1024`, and its encoded size fits. -/
def outWindowOk (c : Params) (a n : Half) : Bool :=
  decide (a.toNat % 2 = 0) && decide (n.toNat ≤ 1024) && decide (a.toNat + rxSize (encodeRx n) ≤ c.pmaBytes)

/-- The checks of R190 in their order: the first that fails is the cause. -/
def regCheck (ep : Byte) (typeOk windowsOk callbacksOk : Bool) : Option FatalCause :=
  if 8 ≤ ep.toNat then some .epRange
  else if !typeOk then some .epType
  else if !windowsOk then some .pmaRange
  else if !callbacksOk then some .nullCallback
  else none

/-- `register_endpoint`: CONTROL, BULK or INTERRUPT, and CONTROL exactly on endpoint 0. -/
def singleTypeOk (ep : Byte) (ty : EpType) : Bool := (ty != .isochronous) && ((ty == .control) == (ep == 0))

/-- The `_tx` and `_rx` variants: BULK or INTERRUPT, endpoints 1 to 7. -/
def onewayTypeOk (ep : Byte) (ty : EpType) : Bool := (ty == .bulk || ty == .interrupt) && (ep != 0)

/-- The double-buffered variants: BULK or ISOCHRONOUS, endpoints 1 to 7. -/
def doubleTypeOk (ep : Byte) (ty : EpType) : Bool := (ty == .bulk || ty == .isochronous) && (ep != 0)

/-! ## The driver (R250) -/

/-- The bit of a capability in `DriverFlags`: its place in R250's table. -/
def Cap.index : Cap → Nat
  | .isSelfpowered => 0
  | .setRemoteWakeup => 1
  | .getRemoteWakeup => 2
  | .isInterfaceValid => 3
  | .isEndpointValid => 4
  | .clearStall => 5
  | .deviceDescriptor => 6
  | .configurationDescriptor => 7
  | .stringDescriptor => 8
  | .bosDescriptor => 9
  | .setDescriptor => 10
  | .getConfiguration => 11
  | .isConfigurationValid => 12
  | .setConfiguration => 13
  | .getInterface => 14
  | .setInterface => 15
  | .classRequest => 16
  | .vendorRequest => 17
  | .suspend => 18
  | .wakeup => 19
  | .startOfFrame => 20

/-- The capability is not null. -/
def hasCap (f : DriverFlags) (c : Cap) : Bool := f.getLsbD c.index

/-- No capability that R250 calls required is null (R362). -/
def driverComplete (f : DriverFlags) : Bool := f.extractLsb' 0 16 == 0xFFFF

/-- The calls that may give a response (R250 (c)). -/
def mayRespond : Callee → Bool
  | .cap .setDescriptor => true
  | .cap .classRequest => true
  | .cap .vendorRequest => true
  | _ => false

/-- Finds the first answer for `c` and takes it out (R106). -/
def takeAnswer (c : Callee) : List DrvAnswer → Option (DrvAnswer × List DrvAnswer)
  | [] => none
  | d :: ds =>
    if d.callee = c then some (d, ds)
    else match takeAnswer c ds with
      | none => none
      | some (e, es) => some (e, d :: es)

/-- What a driver operation acts on (R250 (b), (c)). -/
inductive DrvOp where
  /-- `pma_read`, `pma_write`. -/
  | memory
  /-- An endpoint-register, register or unregister operation on an endpoint. -/
  | endpoint (n : Byte)
  /-- A response. -/
  | response
  /-- Nothing a driver may call. -/
  | other
deriving DecidableEq, Repr

/-- The kind of an operation that a driver calls. -/
def drvOp : Instr → DrvOp
  | .pmaRead _ _ _ | .pmaWrite _ _ _ => .memory
  | .registerEndpoint n _ _ _ _ _ _ | .registerEndpointTx n _ _ _ | .registerEndpointRx n _ _ _ _
  | .registerEndpointDoubleTx n _ _ _ _ | .registerEndpointDoubleRx n _ _ _ _ _ | .unregisterEndpoint n
  | .epConfigure n _ _ _ _ | .epConfigureTx n _ _ | .epConfigureRx n _ _ _ | .epConfigureDoubleTx n _ _ _
  | .epConfigureDoubleRx n _ _ _ _ | .epClearConfiguration n | .epSetStall n _ | .epClearStall n _
  | .epGetStall n _ | .epSetStatus n _ _ | .epSetKind n | .epClearKind n
  | .epClearTransferComplete n _ => .endpoint n
  | .prepareDataIn _ _ | .prepareDataOut _ _ _ | .prepareStatusIn | .stallEp0 _ => .response
  | _ => .other

/-! ## Registers by name and by bus address (R10, R62) -/

/-- The peripheral registers of R10. -/
inductive Reg where
  | epr (n : Fin 8)
  | istr
  | cntr
  | daddr
  | btable
deriving DecidableEq, Repr

/-- The register at an offset from `USB_BASE` (R62). -/
def regAtOffset (off : Nat) : Option Reg :=
  match off with
  | 0x00 => some (.epr 0) | 0x04 => some (.epr 1) | 0x08 => some (.epr 2) | 0x0C => some (.epr 3)
  | 0x10 => some (.epr 4) | 0x14 => some (.epr 5) | 0x18 => some (.epr 6) | 0x1C => some (.epr 7)
  | 0x40 => some .cntr | 0x44 => some .istr | 0x4C => some .daddr | 0x50 => some .btable
  | _ => none

/-- The register at a CPU bus address (R62). -/
def regAtBus (c : Params) (a : Addr) : Option Reg := regAtOffset (a - c.usbBase).toNat

/-- What a read of a register's 32-bit slot gives (R62): bits 31:16 read 0. -/
def slotRead (w : Half) : Addr := w.setWidth 32

/-- What a write of a register's 32-bit slot writes (R62): bits 31:16 are ignored. -/
def slotWrite (v : Addr) : Half := v.extractLsb' 0 16

/-- The byte belongs to `status_buf`, the one piece of CPU memory the block owns (R30, R61). -/
def inStatusBuf (c : Params) (a : Addr) : Bool := a == c.statusBufAddr || a == c.statusBufAddr + 1

end Sys2Proof.Machine
end

