-- ==== Sys2Proof/Machine/Ops.lean ====
section
/-! DEFINITION. The named operations over registers and memories: the atomic steps of R10, each preceded by the SIE steps
that the environment puts there (R70); the SIE's transactions (R290 to R301); and the exceptions: a fatal assertion
(R323), the entry of an invocation (R329) and the return from it (R338). -/

namespace Sys2Proof.Machine

/-! ## Computations -/

/-- How a computation ends early: a fatal assertion leaves the state it was raised in, halted (R323); a fault or a
refusal is terminal (R324, R325). -/
inductive Stop where
  | halt (s : State)
  | fault (f : Fault)
  | refused (r : Refusal)

/-- A rule's pseudocode: a sequence of steps over the state (R10), which an abnormal outcome ends at once (R326). -/
abbrev M (α : Type) := StateT State (Except Stop) α

/-- The state as it is. -/
def getS : M State := fun s => .ok (s, s)

/-- An update of the state. -/
def upd (f : State → State) : M Unit := fun s => .ok ((), f s)

/-- `raise Fault(reason)` (R324). -/
def fault {α : Type} (f : Fault) : M α := fun _ => .error (.fault f)

/-- A step that is absent from the model (R325). -/
def refuse {α : Type} (r : Refusal) : M α := fun _ => .error (.refused r)

/-- `raise Fatal(cause)` (R323): the latch and the cause are written, and nothing of the raising operation follows. -/
def raiseFatal {α : Type} (c : FatalCause) : M α := fun s => .error (.halt { s with fatal := some c })

/-- What a computation from `s` answers. -/
def outcome (m : M Unit) (s : State) : Host.Outcome State Fault Refusal :=
  match m s with
  | .ok (_, t) => .next t
  | .error (.halt t) => .next t
  | .error (.fault f) => .fault f
  | .error (.refused r) => .refused r

/-- A draw: the number of the next free value. -/
def draw : M Nat := fun s => .ok (s.draws, { s with draws := s.draws + 1 })

/-! ## State updates by name -/

/-- `EPR[n]` replaced. -/
def State.setEpr (s : State) (n : Fin 8) (r : Half) : State := { s with epr := s.epr.set n r }

/-- Entry `n` of the endpoint table replaced (R28). -/
def State.setEpt (s : State) (n : Fin 8) (e : EptEntry) : State := { s with ept := s.ept.set n e }

/-- `clear_ctx()` (R227). -/
def State.clearCtx (s : State) : State :=
  { s with ctx := Ctx.cleared, dev := { s.dev with addrPending := false } }

/-- The stage register written (R22). -/
def State.setStage (s : State) (w : BitVec 3) : State := { s with ctx := { s.ctx with stage := w } }

/-- The device state written (R25). -/
def State.setDev (s : State) (d : DevState) : State := { s with dev := { s.dev with state := d } }

/-- The stage values (R22). -/
def stSetup : BitVec 3 := 0
def stDataIn : BitVec 3 := 1
def stDataOut : BitVec 3 := 2
def stStatusIn : BitVec 3 := 3
def stStatusOut : BitVec 3 := 4

/-! ## The SIE (R290): each transaction is one atomic step -/

/-- What the device puts on the bus. -/
def answer (b : BusAnswer) : M Unit := upd fun s => { s with bus := b :: s.bus }

/-- The endpoint that a token is for (R291). -/
def sieMatch (s : State) (a : BitVec 7) (e : BitVec 4) : Option (Fin 8) :=
  if s.daddr.getLsbD 7 ∧ s.daddr.extractLsb' 0 7 = a then
    firstEp fun n => eaOf s.epr[n] == e
      && !(statOf .dirOut s.epr[n] == .disabled && statOf .dirIn s.epr[n] == .disabled)
  else none

/-- A descriptor word, read by the SIE (R45); a word past the packet memory is `Fault(PMA_BOUNDS)` (log 9). -/
def sieBd (n : Fin 8) (f : BdField) : M Half := fun s =>
  if 2 * bdIndex s.cfg n f + 2 ≤ s.cfg.pmaBytes then .ok (bdWord s n f, s) else .error (.fault .pmaBounds)

/-- A packet's bytes, stored by the SIE (R292, R293); bytes past the packet memory are `Fault(PMA_BOUNDS)` (log 9). -/
def siePut (a : Nat) (d : List Byte) : M Unit := fun s =>
  if d = [] ∨ a + d.length ≤ s.cfg.pmaBytes then .ok ((), { s with pma := s.pma.writeBytes a d })
  else .error (.fault .pmaBounds)

/-- The received count, stored by the SIE in `COUNT_RX[9:0]` after the packet; bits 15:10 stand as the packet has left them
(R292, R293). -/
def sieCount (n : Fin 8) (len : Nat) : M Unit :=
  upd fun s => { s with pma := s.pma.writeWord (bdIndex s.cfg n .countRx) (withCount (bdWord s n .countRx) len) }

/-- A SETUP transaction (R292, R303, R304). -/
def sieSetup (a : BitVec 7) (e : BitVec 4) (d : List Byte) : M Unit := do
  let s ← getS
  match sieMatch s a e with
  | none => answer .noAnswer
  | some n =>
    if typeOf s.epr[n] ≠ .control then answer .noAnswer
    else if statOf .dirOut s.epr[n] = .disabled then answer .noAnswer
    else if ctrOf .dirOut s.epr[n] then answer .noAnswer
    else do
      let cr ← sieBd n .countRx
      if rxSize cr < d.length ∨ 1023 < d.length then answer .noAnswer
      else do
        let ar ← sieBd n .addrRx
        siePut (bufOffset ar) d
        sieCount n d.length
        let k ← draw
        upd fun t => t.setEpr n (afterSetup t.epr[n] (Config.freeToggles k))
        answer .ack

/-- An OUT transaction (R293, R296, R302, R303). -/
def sieOut (a : BitVec 7) (e : BitVec 4) (d : List Byte) : M Unit := do
  let s ← getS
  match sieMatch s a e with
  | none => answer .noAnswer
  | some n =>
    if doubleBuffered s.epr[n] then refuse .doubleBuffered
    else match statOf .dirOut s.epr[n] with
      | .disabled => answer .noAnswer
      | .stall => answer .stall
      | .nak => answer .nak
      | .valid =>
        if typeOf s.epr[n] = .control ∧ kindOf s.epr[n] ∧ 0 < d.length then answer .stall
        else do
          let cr ← sieBd n .countRx
          if rxSize cr < d.length ∨ 1023 < d.length then answer .noAnswer
          else do
            let ar ← sieBd n .addrRx
            siePut (bufOffset ar) d
            sieCount n d.length
            upd fun t => t.setEpr n (afterOut t.epr[n])
            answer .ack

/-- An IN transaction (R294, R302); the host's ACK is assumed. -/
def sieIn (a : BitVec 7) (e : BitVec 4) : M Unit := do
  let s ← getS
  match sieMatch s a e with
  | none => answer .noAnswer
  | some n =>
    if doubleBuffered s.epr[n] then refuse .doubleBuffered
    else match statOf .dirIn s.epr[n] with
      | .disabled => answer .noAnswer
      | .stall => answer .stall
      | .nak => answer .nak
      | .valid => do
        let ct ← sieBd n .countTx
        let at_ ← sieBd n .addrTx
        if s.cfg.pmaBytes < bufOffset at_ + countOf ct then fault .pmaBounds
        else do
          answer (.data (dtogTx s.epr[n]) (s.pma.bytes (bufOffset at_) (countOf ct)))
          upd fun t => t.setEpr n (afterIn t.epr[n])

/-- A flag of `ISTR` set by a bus event (R298 to R300). -/
def sieFlag (b : Half) : M Unit := upd fun s => { s with istr := s.istr ||| b }

/-- A bus reset (R297): every endpoint register and `DADDR` are zeroed, `ISTR.RESET` is set. -/
def sieBusReset : M Unit :=
  upd fun s => { s with epr := Vector.replicate 8 0, daddr := 0, istr := s.istr ||| istrReset }

/-- One step of the SIE/host agent (R290). -/
def sieStep : Token → M Unit
  | .setup a e d => sieSetup a e d
  | .out a e d => sieOut a e d
  | .inn a e => sieIn a e
  | .sof _ => sieFlag istrSof
  | .busReset => sieBusReset
  | .suspend => sieFlag istrSusp
  | .resume => sieFlag istrWkup

/-- Steps of the SIE/host agent in a row. -/
def sieSteps : List Token → M Unit
  | [] => pure ()
  | t :: ts => do
    sieStep t
    sieSteps ts

/-- The SIE steps that fall before the block's next atomic step (R70). -/
def tick : M Unit := do
  let s ← getS
  match s.window with
  | [] => pure ()
  | ts :: rest => do
    upd fun t => { t with window := rest }
    sieSteps ts

/-! ## Atomic steps of the block (R10): each falls after the SIE steps of its window -/

/-- The endpoint index of an operand; above 7 it is `Fault(BAD_EP)`. -/
def epIndex (n : Byte) : M (Fin 8) :=
  if h : n.toNat < 8 then pure ⟨n.toNat, h⟩ else fault .badEp

/-- `RegRead` (R10, R69). -/
def regRead : Reg → M Half
  | .epr n => do
    tick
    let s ← getS
    pure s.epr[n]
  | .istr => do
    tick
    let s ← getS
    upd fun t => { t with draws := t.draws + 1 }
    pure (istrRead s)
  | .cntr => do
    tick
    let s ← getS
    pure s.cntr
  | .daddr => do
    tick
    let s ← getS
    pure (s.daddr.setWidth 16)
  | .btable => do
    tick
    let s ← getS
    pure s.btable

/-- What a register write leaves (R40, R42 to R44, R152). -/
def State.writeReg (s : State) (r : Reg) (w : Half) : State :=
  match r with
  | .epr n => s.setEpr n (eprWrite s.epr[n] w)
  | .istr => { s with istr := istrWrite s.istr w }
  | .cntr => { s with cntr := w }
  | .daddr => { s with daddr := w.extractLsb' 0 8 }
  | .btable => { s with btable := btableWrite w }

/-- `RegWrite` (R10). -/
def regWrite (r : Reg) (w : Half) : M Unit := do
  tick
  upd fun s => s.writeReg r w

/-- `PmaRead16` (R10); a word past the packet memory is `Fault(PMA_BOUNDS)` (R67). -/
def pmaRead16 (k : Nat) : M Half := do
  tick
  let s ← getS
  if 2 * k + 2 ≤ s.cfg.pmaBytes then pure (s.pma.word k) else fault .pmaBounds

/-- `PmaWrite16` (R10): past the packet memory it is `Fault(PMA_BOUNDS)` (R67), on a word the SIE owns
`Fault(OWNERSHIP)` (R72). -/
def pmaWrite16 (k : Nat) (v : Half) : M Unit := do
  tick
  let s ← getS
  if 2 * k + 2 ≤ s.cfg.pmaBytes then
    if sieOwns s k then fault .ownership
    else upd fun t => { t with pma := t.pma.writeWord k v }
  else fault .pmaBounds

/-- `BdRead` (R10, R45). -/
def bdRead (n : Fin 8) (f : BdField) : M Half := do
  let s ← getS
  pmaRead16 (bdIndex s.cfg n f)

/-- `BdWrite` (R10, R45). -/
def bdWrite (n : Fin 8) (f : BdField) (v : Half) : M Unit := do
  let s ← getS
  pmaWrite16 (bdIndex s.cfg n f) v

/-- `MemRead(a, 1)` (R10); outside the mapped memory it is `Fault(CPU_BUS)` (R61). -/
def memRead (a : Addr) : M Byte := do
  tick
  let s ← getS
  if s.cfg.mapped a then pure (s.cpu.read a.toNat) else fault .cpuBus

/-- `MemWrite(a, 1, v)` (R10); outside the mapped memory it is `Fault(CPU_BUS)` (R61). -/
def memWrite (a : Addr) (v : Byte) : M Unit := do
  tick
  let s ← getS
  if s.cfg.mapped a then upd fun t => { t with cpu := t.cpu.write a.toNat v } else fault .cpuBus

/-! ## The read-modify-write unit (R151) -/

/-- One snapshot, and at most one write computed from it alone (R151); answers the snapshot. -/
def eprRmw (n : Fin 8) (word : Half → Option Half) : M Half := do
  let snap ← regRead (.epr n)
  match word snap with
  | none => pure snap
  | some w => do
    regWrite (.epr n) w
    pure snap

/-! ## Invocations of the event dispatcher -/

/-- The entry of an invocation (R329): `in_isr` is set and `ISTR` is read once. -/
def isrEnter : M Unit := do
  upd fun s => { s with inIsr := true }
  let w ← regRead .istr
  upd fun s => { s with isrPending := w, isrHandled := 0 }

/-- The return from an invocation (R330, R338): one write-back, which clears the serviced flags, and `in_isr` is
cleared. -/
def isrReturn : M Unit := do
  let s ← getS
  regWrite .istr (~~~ s.isrHandled)
  upd fun t => { t with inIsr := false }

/-- Only the interrupt context writes shared state, or the foreground with the interrupt masked; else
`Fault(FOREGROUND_WRITE)` (R341). -/
def requireWriter : M Unit := do
  let s ← getS
  if s.inIsr || s.irqMasked then pure () else fault .foregroundWrite

/-- `require_dispatch()` (R228): a response needs a running dispatch with none given yet. -/
def requireDispatch : M Unit := do
  let s ← getS
  if s.inDispatch && !s.responded then upd fun t => { t with responded := true } else fault .prepareContext

/-- A read of the setup latch, which outside a dispatch is `Fault(SETUP_NOT_LATCHED)` (R24). -/
def readSetup : M SetupPacket := do
  let s ← getS
  match s.setup with
  | some p => if s.inDispatch then pure p else fault .setupNotLatched
  | none => fault .setupNotLatched

/-- `clear_ctx()` (R227). -/
def clearCtx : M Unit := upd State.clearCtx

end Sys2Proof.Machine
end

