-- ==== Sys2Proof/Machine/EpReg.lean ====
section
/-! DEFINITION. The endpoint-register operations (spec/41_ep_register.md, CALL8 ids 0x10 to 0x1C), each one
read-modify-write of the three-term formula (R151, R153). -/

namespace Sys2Proof.Machine

/-! ## Status, stall and kind (R155 to R160) -/

/-- The word that sets one direction's status (R155). -/
def statusWord (snap : Half) (dir : Dir) (st : Stat) : Half :=
  rmwWord snap (statMask dir) (statAt dir st) snap 0

/-- `ep_set_status` on endpoint `n` (R155). -/
def setStatusAt (n : Fin 8) (dir : Dir) (st : Stat) : M Unit := do
  let _ ← eprRmw n fun snap => some (statusWord snap dir st)
  pure ()

/-- The status that a cleared stall leaves (R157). -/
def clearedStall : Dir → Stat
  | .dirIn => .nak
  | .dirOut => .valid

/-- `ep_set_status(n, dir, s)` (R155). -/
def epSetStatus (n : Byte) (dir : Dir) (st : Stat) : M Unit := do
  let e ← epIndex n
  setStatusAt e dir st

/-- `ep_set_stall` on endpoint `n`: no write on a disabled direction (R156). -/
def setStallAt (n : Fin 8) (dir : Dir) : M Unit := do
  let _ ← eprRmw n fun snap =>
    if statOf dir snap = .disabled then none else some (statusWord snap dir .stall)
  pure ()

/-- `ep_set_stall(n, dir)` (R156). -/
def epSetStall (n : Byte) (dir : Dir) : M Unit := do
  let e ← epIndex n
  setStallAt e dir

/-- `ep_clear_stall(n, dir)` (R157): only from STALL; the direction's data toggle is reset. -/
def epClearStall (n : Byte) (dir : Dir) : M Unit := do
  let e ← epIndex n
  let _ ← eprRmw e fun snap =>
    if statOf dir snap = .stall then
      some (rmwWord snap (statMask dir ||| dtogMask dir) (statAt dir (clearedStall dir)) snap 0)
    else none
  pure ()

/-- `ep_get_stall(n, dir)` (R158): one read, no write. -/
def epGetStall (n : Byte) (dir : Dir) : M Bool := do
  let e ← epIndex n
  let snap ← regRead (.epr e)
  pure (statOf dir snap == .stall)

/-- `ep_set_kind` on endpoint `n` (R159). -/
def setKindAt (n : Fin 8) : M Unit := do
  let _ ← eprRmw n fun snap => some (rmwWord snap 0 0 (snap ||| kindBit) 0)
  pure ()

/-- `ep_set_kind(n)` (R159). -/
def epSetKind (n : Byte) : M Unit := do
  let e ← epIndex n
  setKindAt e

/-- `ep_clear_kind` on endpoint `n` (R160). -/
def clearKindAt (n : Fin 8) : M Unit := do
  let _ ← eprRmw n fun snap => some (rmwWord snap 0 0 (snap &&& ~~~ kindBit) 0)
  pure ()

/-- `ep_clear_kind(n)` (R160). -/
def epClearKind (n : Byte) : M Unit := do
  let e ← epIndex n
  clearKindAt e

/-! ## Configuration (R161 to R167) -/

/-- `ep_clear_configuration` on endpoint `n` (R161). -/
def clearConfigurationAt (n : Fin 8) : M Unit := do
  let _ ← eprRmw n fun snap => some (rmwWord snap toggleMask 0 0 ctrMask)
  pure ()

/-- `ep_clear_configuration(n)` (R161). -/
def epClearConfiguration (n : Byte) : M Unit := do
  let e ← epIndex n
  clearConfigurationAt e

/-- The register write that ends every configuration (R162 to R167): type, kind, `EA = n`, both statuses, both toggles 0,
pending flags kept. -/
def configureRegister (n : Fin 8) (ty : EpType) (kind : Bool) (rx tx : Stat) : M Unit := do
  let _ ← eprRmw n fun snap =>
    some (rmwWord snap toggleMask (statAt .dirOut rx ||| statAt .dirIn tx) (plainBits ty kind n) 0)
  pure ()

/-- `ep_configure` (R162). -/
def epConfigure (n : Byte) (ty : EpType) (txAddr rxAddr rxCount : Half) : M Unit := do
  let e ← epIndex n
  bdWrite e .addrTx txAddr
  bdWrite e .countTx 0
  bdWrite e .addrRx rxAddr
  bdWrite e .countRx (encodeRx rxCount)
  configureRegister e ty false .valid .nak

/-- `ep_configure_tx` (R166). -/
def epConfigureTx (n : Byte) (ty : EpType) (txAddr : Half) : M Unit := do
  let e ← epIndex n
  bdWrite e .addrTx txAddr
  bdWrite e .countTx 0
  configureRegister e ty false .disabled .nak

/-- `ep_configure_rx` (R167). -/
def epConfigureRx (n : Byte) (ty : EpType) (rxAddr rxCount : Half) : M Unit := do
  let e ← epIndex n
  bdWrite e .addrRx rxAddr
  bdWrite e .countRx (encodeRx rxCount)
  configureRegister e ty false .valid .disabled

/-- `ep_configure_double_tx` (R163): buffer 0 in the TX pair, buffer 1 in the RX pair (R196). -/
def epConfigureDoubleTx (n : Byte) (ty : EpType) (addr0 addr1 : Half) : M Unit := do
  let e ← epIndex n
  bdWrite e .addrTx addr0
  bdWrite e .countTx 0
  bdWrite e .addrRx addr1
  bdWrite e .countRx 0
  configureRegister e ty (ty == .bulk) .disabled .nak

/-- `ep_configure_double_rx` (R164). -/
def epConfigureDoubleRx (n : Byte) (ty : EpType) (addr0 addr1 rxCount : Half) : M Unit := do
  let e ← epIndex n
  bdWrite e .addrTx addr0
  bdWrite e .countTx (encodeRx rxCount)
  bdWrite e .addrRx addr1
  bdWrite e .countRx (encodeRx rxCount)
  configureRegister e ty (ty == .bulk) .valid .disabled

/-- `ep_clear_transfer_complete` on endpoint `n` (R165): clears `CTR_dir`, keeps the other flag, answers the snapshot. -/
def clearCompleteAt (n : Fin 8) (dir : Dir) : M Half :=
  eprRmw n fun snap => some (rmwWord snap 0 0 snap (ctrBit dir))

/-- `ep_clear_transfer_complete(n, dir)` (R165). -/
def epClearTransferComplete (n : Byte) (dir : Dir) : M Half := do
  let e ← epIndex n
  clearCompleteAt e dir

/-! ## The command calls -/

/-- A result returned to the caller of a command. -/
def returnValue (v : Half) : M Unit := upd fun s => { s with ret := v }

/-- CALL8 0x10, `ep_configure` (R162). -/
def execEpConfigure (n : Byte) (ty : EpType) (txAddr rxAddr rxCount : Half) (s : State) :
    Host.Outcome State Fault Refusal :=
  outcome (do requireWriter; epConfigure n ty txAddr rxAddr rxCount) s

/-- CALL8 0x11, `ep_configure_tx` (R166). -/
def execEpConfigureTx (n : Byte) (ty : EpType) (txAddr : Half) (s : State) : Host.Outcome State Fault Refusal :=
  outcome (do requireWriter; epConfigureTx n ty txAddr) s

/-- CALL8 0x12, `ep_configure_rx` (R167). -/
def execEpConfigureRx (n : Byte) (ty : EpType) (rxAddr rxCount : Half) (s : State) :
    Host.Outcome State Fault Refusal :=
  outcome (do requireWriter; epConfigureRx n ty rxAddr rxCount) s

/-- CALL8 0x13, `ep_configure_double_tx` (R163). -/
def execEpConfigureDoubleTx (n : Byte) (ty : EpType) (addr0 addr1 : Half) (s : State) :
    Host.Outcome State Fault Refusal :=
  outcome (do requireWriter; epConfigureDoubleTx n ty addr0 addr1) s

/-- CALL8 0x14, `ep_configure_double_rx` (R164). -/
def execEpConfigureDoubleRx (n : Byte) (ty : EpType) (addr0 addr1 rxCount : Half) (s : State) :
    Host.Outcome State Fault Refusal :=
  outcome (do requireWriter; epConfigureDoubleRx n ty addr0 addr1 rxCount) s

/-- CALL8 0x15, `ep_clear_configuration` (R161). -/
def execEpClearConfiguration (n : Byte) (s : State) : Host.Outcome State Fault Refusal :=
  outcome (do requireWriter; epClearConfiguration n) s

/-- CALL8 0x16, `ep_set_stall` (R156). -/
def execEpSetStall (n : Byte) (dir : Dir) (s : State) : Host.Outcome State Fault Refusal :=
  outcome (do requireWriter; epSetStall n dir) s

/-- CALL8 0x17, `ep_clear_stall` (R157). -/
def execEpClearStall (n : Byte) (dir : Dir) (s : State) : Host.Outcome State Fault Refusal :=
  outcome (do requireWriter; epClearStall n dir) s

/-- CALL8 0x18, `ep_get_stall` (R158). -/
def execEpGetStall (n : Byte) (dir : Dir) (s : State) : Host.Outcome State Fault Refusal :=
  outcome (do
    requireWriter
    let b ← epGetStall n dir
    returnValue ((BitVec.ofBool b).setWidth 16)) s

/-- CALL8 0x19, `ep_set_status` (R155). -/
def execEpSetStatus (n : Byte) (dir : Dir) (st : Stat) (s : State) : Host.Outcome State Fault Refusal :=
  outcome (do requireWriter; epSetStatus n dir st) s

/-- CALL8 0x1A, `ep_set_kind` (R159). -/
def execEpSetKind (n : Byte) (s : State) : Host.Outcome State Fault Refusal :=
  outcome (do requireWriter; epSetKind n) s

/-- CALL8 0x1B, `ep_clear_kind` (R160). -/
def execEpClearKind (n : Byte) (s : State) : Host.Outcome State Fault Refusal :=
  outcome (do requireWriter; epClearKind n) s

/-- CALL8 0x1C, `ep_clear_transfer_complete` (R165). -/
def execEpClearTransferComplete (n : Byte) (dir : Dir) (s : State) : Host.Outcome State Fault Refusal :=
  outcome (do
    requireWriter
    let w ← epClearTransferComplete n dir
    returnValue w) s

end Sys2Proof.Machine
end

