-- ==== Sys2Proof/Machine/Pma.lean ====
section
/-! DEFINITION. The packet-memory byte packer (spec/40_pma_transfer.md): `pma_write` and `pma_read`. -/

namespace Sys2Proof.Machine

/-- The checks that both transfers make first (R140, R141): an even offset, and the last byte inside the memory. -/
def pmaCheck (offset count : Half) : M Unit := do
  let s ← getS
  if offset.getLsbD 0 then fault .pmaMisaligned
  else if count ≠ 0 ∧ s.cfg.pmaBytes < offset.toNat + count.toNat then fault .pmaBounds
  else pure ()

/-- Writes `n` whole words from CPU address `src` to packet-memory words from `k` on (R140, R143). -/
def pmaWriteWords (src : Addr) (k : Nat) : Nat → M Unit
  | 0 => pure ()
  | n + 1 => do
    let lo ← memRead src
    let hi ← memRead (src + 1)
    pmaWrite16 k (le16 lo hi)
    pmaWriteWords (src + 2) (k + 1) n

/-- Reads `n` whole words from packet-memory words from `k` on to CPU address `dst` (R141, R143). -/
def pmaReadWords (dst : Addr) (k : Nat) : Nat → M Unit
  | 0 => pure ()
  | n + 1 => do
    let w ← pmaRead16 k
    memWrite dst (byteAt w 0)
    memWrite (dst + 1) (byteAt w 1)
    pmaReadWords (dst + 2) (k + 1) n

/-- `pma_write(src, offset, count)` (R140); the high byte of an odd tail is a free value (U2). -/
def pmaWrite (src : Addr) (offset count : Half) : M Unit := do
  pmaCheck offset count
  pmaWriteWords src (offset.toNat / 2) (count.toNat / 2)
  if count.getLsbD 0 then do
    let lo ← memRead (src + count.setWidth 32 - 1)
    let k ← draw
    pmaWrite16 (offset.toNat / 2 + count.toNat / 2) (le16 lo (Config.freeByte k))
  else pure ()

/-- `pma_read(offset, dst, count)` (R141); the high byte of an odd tail is discarded. -/
def pmaRead (offset : Half) (dst : Addr) (count : Half) : M Unit := do
  pmaCheck offset count
  pmaReadWords dst (offset.toNat / 2) (count.toNat / 2)
  if count.getLsbD 0 then do
    let w ← pmaRead16 (offset.toNat / 2 + count.toNat / 2)
    memWrite (dst + count.setWidth 32 - 1) (byteAt w 0)
  else pure ()

/-- CALL8 0x04, `pma_read` (R141). -/
def execPmaRead (offset : Half) (dst : Addr) (count : Half) (s : State) : Host.Outcome State Fault Refusal :=
  outcome (do requireWriter; pmaRead offset dst count) s

/-- CALL8 0x05, `pma_write` (R140). -/
def execPmaWrite (src : Addr) (offset count : Half) (s : State) : Host.Outcome State Fault Refusal :=
  outcome (do requireWriter; pmaWrite src offset count) s

end Sys2Proof.Machine
end

