-- ==== Sys2Proof/Machine/Control.lean ====
section
/-! DEFINITION. The control-transfer state machine's shared parts (spec/43_control_fsm.md): the `prepare_*` entry points,
the protocol stall, and the helpers that arm a direction of endpoint 0. -/

namespace Sys2Proof.Machine

/-- Replaces the context (R21). -/
def setCtx (c : Ctx) : M Unit := upd fun s => { s with ctx := c }

/-- The context after `n` bytes have been sent or received (R216, R221): the address wraps modulo 2^32 (R15). -/
def Ctx.advance (c : Ctx) (n : Nat) : Ctx :=
  { c with buffer := c.buffer + BitVec.ofNat 32 n, remaining := c.remaining - BitVec.ofNat 32 n }

/-- `send_chunk()` (R216). -/
def sendChunk : M Unit := do
  let s ← getS
  let n := min s.ctx.remaining.toNat s.cfg.mps0
  pmaWrite s.ctx.buffer s.cfg.ep0TxOff (BitVec.ofNat 16 n)
  bdWrite 0 .countTx (BitVec.ofNat 16 n)
  upd fun t => { t with ctx := t.ctx.advance n }

/-- `receive_chunk()` (R221): answers the received count. -/
def receiveChunk : M Nat := do
  let w ← bdRead 0 .countRx
  let s ← getS
  let n := min s.ctx.remaining.toNat (countOf w)
  pmaRead s.cfg.ep0RxOff s.ctx.buffer (BitVec.ofNat 16 n)
  upd fun t => { t with ctx := t.ctx.advance n }
  pure (countOf w)

/-- `rx_stat_for(c)` (R217). -/
def rxStatFor (p : Params) (wLength : Half) (c : Addr) : Stat :=
  if c.toNat < wLength.toNat then .nak
  else if p.mps0 < c.toNat then p.dataInRxMulti
  else .nak

/-- `enter_status_out()` (R218). -/
def enterStatusOut : M Unit := do
  setKindAt 0
  setStatusAt 0 .dirOut .valid
  upd fun s => s.setStage stStatusOut

/-- `enter_status_in()` (R222). -/
def enterStatusIn : M Unit := do
  upd fun s => s.setStage stStatusIn
  bdWrite 0 .countTx 0
  setStatusAt 0 .dirIn .valid

/-- The stall causes of R321. -/
def sNotSetup : Byte := 1
def sSetupLen : Byte := 2
def sUndefined : Byte := 3
def sNotLegal : Byte := 4
def sRecipient : Byte := 5
def sFeature : Byte := 6
def sEpInvalid : Byte := 7
def sIfInvalid : Byte := 8
def sCfgInvalid : Byte := 9
def sDescriptor : Byte := 10
def sSynchFrame : Byte := 11
def sDriver : Byte := 12

/-- `stall_ep0(cause)` (R231): the stall of both directions of endpoint 0.  The cause is a trace annotation (R321, R346), kept
in the record `stalls` and read by nothing. -/
def stallBoth (cause : Byte) : M Unit := do
  upd fun s => { s with stalls := cause :: s.stalls }
  setStallAt 0 .dirIn
  setStallAt 0 .dirOut
  clearCtx

/-- `stall_ep0(cause)` as a handler's response (R228, R231). -/
def stallResponse (cause : Byte) : M Unit := do
  requireDispatch
  stallBoth cause

/-- `prepare_data_in_stage(buf, count)` (R214, R232). -/
def prepareDataIn (buf count : Addr) : M Unit := do
  requireDispatch
  let p ← readSetup
  let c := if count.toNat ≤ p.wLength.toNat then count else p.wLength.setWidth 32
  setCtx { buffer := buf, remaining := c, stage := stDataIn, completion := none }
  sendChunk
  let s ← getS
  setStatusAt 0 .dirOut (rxStatFor s.cfg p.wLength c)
  setStatusAt 0 .dirIn .valid

/-- `prepare_data_out_stage(buf, count, on_complete)` (R219). -/
def prepareDataOut (buf count : Addr) (onComplete : Option CbId) : M Unit := do
  requireDispatch
  setCtx { buffer := buf, remaining := count, stage := stDataOut, completion := onComplete }
  if count = 0 then enterStatusIn else setStatusAt 0 .dirOut .valid

/-- `prepare_status_in_stage()` (R223). -/
def prepareStatusIn : M Unit := do
  requireDispatch
  setCtx { buffer := 0, remaining := 0, stage := stStatusIn, completion := none }
  enterStatusIn

/-! ## The command calls -/

/-- CALL8 0x01, `prepare_data_in_stage` (R214).  Here and in the other three responses the writer's check comes first, so an
unmasked foreground call is `Fault(FOREGROUND_WRITE)` and not `Fault(PREPARE_CONTEXT)`: R341 and R228 give no order, and this
one is the model's choice (log 31). -/
def execPrepareDataIn (buf count : Addr) (s : State) : Host.Outcome State Fault Refusal :=
  outcome (do requireWriter; prepareDataIn buf count) s

/-- CALL8 0x02, `prepare_data_out_stage` (R219). -/
def execPrepareDataOut (buf count : Addr) (onComplete : Option CbId) (s : State) : Host.Outcome State Fault Refusal :=
  outcome (do requireWriter; prepareDataOut buf count onComplete) s

/-- CALL8 0x03, `prepare_status_in_stage` (R223). -/
def execPrepareStatusIn (s : State) : Host.Outcome State Fault Refusal :=
  outcome (do requireWriter; prepareStatusIn) s

/-- CALL8 0x20, `stall_ep0` as a handler calls it (R231). -/
def execStallEp0 (cause : Byte) (s : State) : Host.Outcome State Fault Refusal :=
  outcome (do requireWriter; stallResponse cause) s

end Sys2Proof.Machine
end

