-- ==== Sys2Proof/Machine/EpTable.lean ====
section
/-! DEFINITION. The endpoint table (spec/42_endpoint_table.md): registration, its preconditions, and unregistration. -/

namespace Sys2Proof.Machine

/-- The first failing check is a fatal assertion, with no state changed (R190). -/
def requireChecks (c : Option FatalCause) : M Unit :=
  match c with
  | none => pure ()
  | some f => raiseFatal f

/-- Writes a table entry (R28). -/
def putEntry (ep : Byte) (e : EptEntry) : M Unit := do
  let n ← epIndex ep
  upd fun s => s.setEpt n e

/-- `register_endpoint` (R191). -/
def registerEndpoint (ep : Byte) (ty : EpType) (txAddr rxAddr rxCount : Half) (onIn onOut : Option CbId) : M Unit := do
  let s ← getS
  requireChecks (regCheck ep (singleTypeOk ep ty)
    (inWindowOk s.cfg txAddr && outWindowOk s.cfg rxAddr rxCount) (onIn.isSome && onOut.isSome))
  epConfigure ep ty txAddr rxAddr rxCount
  putEntry ep { mode := .single, ty := ty, txAddr := txAddr, rxAddr := rxAddr, rxCount := rxCount,
                inCb := onIn, outCb := onOut }

/-- `register_endpoint_tx` (R192). -/
def registerEndpointTx (ep : Byte) (ty : EpType) (txAddr : Half) (onIn : Option CbId) : M Unit := do
  let s ← getS
  requireChecks (regCheck ep (onewayTypeOk ep ty) (inWindowOk s.cfg txAddr) onIn.isSome)
  epConfigureTx ep ty txAddr
  putEntry ep { mode := .txOnly, ty := ty, txAddr := txAddr, rxAddr := 0, rxCount := 0, inCb := onIn, outCb := none }

/-- `register_endpoint_rx` (R193). -/
def registerEndpointRx (ep : Byte) (ty : EpType) (rxAddr rxCount : Half) (onOut : Option CbId) : M Unit := do
  let s ← getS
  requireChecks (regCheck ep (onewayTypeOk ep ty) (outWindowOk s.cfg rxAddr rxCount) onOut.isSome)
  epConfigureRx ep ty rxAddr rxCount
  putEntry ep { mode := .rxOnly, ty := ty, txAddr := 0, rxAddr := rxAddr, rxCount := rxCount,
                inCb := none, outCb := onOut }

/-- `register_endpoint_double_tx` (R194). -/
def registerEndpointDoubleTx (ep : Byte) (ty : EpType) (addr0 addr1 : Half) (onIn : Option CbId) : M Unit := do
  let s ← getS
  requireChecks (regCheck ep (doubleTypeOk ep ty) (inWindowOk s.cfg addr0 && inWindowOk s.cfg addr1) onIn.isSome)
  epConfigureDoubleTx ep ty addr0 addr1
  putEntry ep { mode := .doubleTx, ty := ty, txAddr := addr0, rxAddr := addr1, rxCount := 0,
                inCb := onIn, outCb := none }

/-- `register_endpoint_double_rx` (R195). -/
def registerEndpointDoubleRx (ep : Byte) (ty : EpType) (addr0 addr1 rxCount : Half) (onOut : Option CbId) :
    M Unit := do
  let s ← getS
  requireChecks (regCheck ep (doubleTypeOk ep ty)
    (outWindowOk s.cfg addr0 rxCount && outWindowOk s.cfg addr1 rxCount) onOut.isSome)
  epConfigureDoubleRx ep ty addr0 addr1 rxCount
  putEntry ep { mode := .doubleRx, ty := ty, txAddr := addr0, rxAddr := addr1, rxCount := rxCount,
                inCb := none, outCb := onOut }

/-- `unregister_endpoint` (R197). -/
def unregisterEndpoint (ep : Byte) : M Unit := do
  requireChecks (if 8 ≤ ep.toNat then some .epRange else none)
  epClearConfiguration ep
  putEntry ep EptEntry.unregistered

/-! ## The command calls -/

/-- CALL8 0x06, `register_endpoint` (R191). -/
def execRegisterEndpoint (ep : Byte) (ty : EpType) (txAddr rxAddr rxCount : Half) (onIn onOut : Option CbId)
    (s : State) : Host.Outcome State Fault Refusal :=
  outcome (do requireWriter; registerEndpoint ep ty txAddr rxAddr rxCount onIn onOut) s

/-- CALL8 0x07, `register_endpoint_tx` (R192). -/
def execRegisterEndpointTx (ep : Byte) (ty : EpType) (txAddr : Half) (onIn : Option CbId) (s : State) :
    Host.Outcome State Fault Refusal :=
  outcome (do requireWriter; registerEndpointTx ep ty txAddr onIn) s

/-- CALL8 0x08, `register_endpoint_rx` (R193). -/
def execRegisterEndpointRx (ep : Byte) (ty : EpType) (rxAddr rxCount : Half) (onOut : Option CbId) (s : State) :
    Host.Outcome State Fault Refusal :=
  outcome (do requireWriter; registerEndpointRx ep ty rxAddr rxCount onOut) s

/-- CALL8 0x09, `register_endpoint_double_tx` (R194). -/
def execRegisterEndpointDoubleTx (ep : Byte) (ty : EpType) (addr0 addr1 : Half) (onIn : Option CbId) (s : State) :
    Host.Outcome State Fault Refusal :=
  outcome (do requireWriter; registerEndpointDoubleTx ep ty addr0 addr1 onIn) s

/-- CALL8 0x0A, `register_endpoint_double_rx` (R195). -/
def execRegisterEndpointDoubleRx (ep : Byte) (ty : EpType) (addr0 addr1 rxCount : Half) (onOut : Option CbId)
    (s : State) : Host.Outcome State Fault Refusal :=
  outcome (do requireWriter; registerEndpointDoubleRx ep ty addr0 addr1 rxCount onOut) s

/-- CALL8 0x0B, `unregister_endpoint` (R197). -/
def execUnregisterEndpoint (ep : Byte) (s : State) : Host.Outcome State Fault Refusal :=
  outcome (do requireWriter; unregisterEndpoint ep) s

end Sys2Proof.Machine
end

