-- ==== Sys2Proof/Machine/Driver.lean ====
section
/-! DEFINITION. The driver oracle (R250): a call outside the block, its answer, and what it may do while it runs. -/

namespace Sys2Proof.Machine

/-- The operation of an instruction that a driver may call (R250 (b), (c)); the rest are refused (RF3).  A driver's stall has
the label `S_DRIVER`, whatever its call names (R321). -/
def drvRun : Instr → M Unit
  | .pmaRead o d c => pmaRead o d c
  | .pmaWrite a o c => pmaWrite a o c
  | .registerEndpoint e t x r c i o => registerEndpoint e t x r c i o
  | .registerEndpointTx e t x i => registerEndpointTx e t x i
  | .registerEndpointRx e t r c o => registerEndpointRx e t r c o
  | .registerEndpointDoubleTx e t x y i => registerEndpointDoubleTx e t x y i
  | .registerEndpointDoubleRx e t x y c o => registerEndpointDoubleRx e t x y c o
  | .unregisterEndpoint e => unregisterEndpoint e
  | .epConfigure n t x r c => epConfigure n t x r c
  | .epConfigureTx n t x => epConfigureTx n t x
  | .epConfigureRx n t r c => epConfigureRx n t r c
  | .epConfigureDoubleTx n t x y => epConfigureDoubleTx n t x y
  | .epConfigureDoubleRx n t x y c => epConfigureDoubleRx n t x y c
  | .epClearConfiguration n => epClearConfiguration n
  | .epSetStall n d => epSetStall n d
  | .epClearStall n d => epClearStall n d
  | .epGetStall n d => do
    let b ← epGetStall n d
    returnValue ((BitVec.ofBool b).setWidth 16)
  | .epSetStatus n d v => epSetStatus n d v
  | .epSetKind n => epSetKind n
  | .epClearKind n => epClearKind n
  | .epClearTransferComplete n d => do
    let w ← epClearTransferComplete n d
    returnValue w
  | .prepareDataIn b c => prepareDataIn b c
  | .prepareDataOut b c f => prepareDataOut b c f
  | .prepareStatusIn => prepareStatusIn
  | .stallEp0 _ => stallResponse sDriver
  | _ => refuse .driverAction

/-- One action of a call of `c` (R250): endpoint operations on endpoint 0, and a response by a call that may give none, are
outside the list and refused (R325).  Outside a dispatch a response is the fault of R228.  The hooks of R335 to R337 are
driver calls like the others: that they may run the operations of R250 (b), although R335 says of the suspend hook that it
changes no block state, is the model's choice (log 32). -/
def drvAct (c : Callee) : DrvAct → M Unit
  | .readCpu a => do
    let _ ← memRead a
    pure ()
  | .call i => do
    let s ← getS
    match drvOp i with
    | .memory => drvRun i
    | .endpoint n => if n = 0 then refuse .driverAction else drvRun i
    | .response => if s.inDispatch && !mayRespond c then refuse .driverAction else drvRun i
    | .other => refuse .driverAction

/-- The actions of a call, in order. -/
def drvActs (c : Callee) : List DrvAct → M Unit
  | [] => pure ()
  | x :: xs => do
    drvAct c x
    drvActs c xs

/-- A call outside the block (R10, R250): one step, recorded with its arguments; a `DRV` line that names it says what it
does and answers (R106). -/
def callOut (c : Callee) (args : List Half) : M (Option DrvAnswer) := do
  tick
  let s ← getS
  match takeAnswer c s.answers with
  | none => do
    upd fun t => { t with calls := { callee := c, args := args } :: t.calls }
    pure none
  | some (d, rest) => do
    upd fun t => { t with calls := { callee := c, args := args } :: t.calls, answers := rest }
    drvActs c d.acts
    pure (some d)

/-- A call that answers nothing. -/
def notify (c : Callee) (args : List Half) : M Unit := do
  let _ ← callOut c args
  pure ()

/-- A call that answers: the `DRV` line's answer, or free values (U8). -/
def ask (c : Cap) (args : List Half) : M (Addr × Addr) := do
  let d ← callOut (.cap c) args
  match d with
  | some x => pure (x.a, x.n)
  | none => do
    let k ← draw
    pure (Config.freeAnswer k, Config.freeCount k)

/-- A call that answers a bool. -/
def askBool (c : Cap) (args : List Half) : M Bool := do
  let x ← ask c args
  pure (x.1.getLsbD 0)

/-- A call that answers a byte. -/
def askByte (c : Cap) (args : List Half) : M Byte := do
  let x ← ask c args
  pure (x.1.extractLsb' 0 8)

/-- An optional hook: called when it is not null (R335 to R337). -/
def hook (c : Cap) : M Unit := do
  let s ← getS
  if hasCap s.driver c then notify (.cap c) [] else pure ()

end Sys2Proof.Machine
end

