-- ==== Sys2Proof/Machine/Events.lean ====
section
/-! DEFINITION. The handlers of the event dispatcher (spec/60_exceptions.md, R331 to R337).  Each tests its condition off
the invocation's snapshot, and a serviced flag is noted for the write-back (R330). -/

namespace Sys2Proof.Machine

/-- The condition has been tested in the snapshot. -/
def tested (b : Half) : M Unit := upd fun s => { s with isrPending := s.isrPending &&& ~~~ b }

/-- `handled <- handled | b` (R330). -/
def handled (b : Half) : M Unit := upd fun s => { s with isrHandled := s.isrHandled ||| b }

/-- The callback of a completion; a null one is the fatal assertion `NO_HANDLER` (R198). -/
def lookupCallback (n : Fin 8) (dir : Dir) : M CbId := do
  let s ← getS
  match s.ept[n].callback dir with
  | some cb => pure cb
  | none => raiseFatal .noHandler

/-- The forced Setup (R331): an OUT completion whose snapshot has `SETUP` set clears the context. -/
def forceSetup (dir : Dir) (snap : Half) : M Unit :=
  if dir = .dirOut ∧ setupOf snap = true then clearCtx else pure ()

/-- `ctr_handler` for endpoint 0 (R331).  It ends by calling `CONTROL_FSM` with the event: the next step fetches the stage
that `ctx.stage` selects (R210). -/
def ctrEp0 (dir : Dir) : M Unit := do
  let snap ← clearCompleteAt 0 dir
  forceSetup dir snap
  let _ ← lookupCallback 0 dir
  upd fun s => { s with stageDue := true, ev := { dir := dir, setup := setupOf snap } }

/-- `ctr_handler` for endpoints 1 to 7 (R331, R332); an endpoint above 7 is `Fault(BAD_EP_ID)`. -/
def ctrEpn (n : BitVec 4) (dir : Dir) : M Unit :=
  if h : n.toNat < 8 then do
    let _ ← clearCompleteAt ⟨n.toNat, h⟩ dir
    let cb ← lookupCallback ⟨n.toNat, h⟩ dir
    notify (.callback cb) []
  else fault .badEpId

/-- `unregister_endpoint(n)` for the endpoints from `n` on, `k` of them (R334). -/
def unregisterFrom (n : Nat) : Nat → M Unit
  | 0 => pure ()
  | k + 1 => do
    unregisterEndpoint (BitVec.ofNat 8 n)
    unregisterFrom (n + 1) k

/-- `bus_reset_handler()` (R334). -/
def busResetHandler : M Unit := do
  unregisterFrom 0 8
  let s ← getS
  registerEndpoint 0 .control s.cfg.ep0TxOff s.cfg.ep0RxOff (BitVec.ofNat 16 s.cfg.mps0)
    (some controlFsm) (some controlFsm)
  regWrite .daddr 0x0080
  clearCtx
  upd fun t => { t with dev := { t.dev with state := .default, previous := .default } }

/-- `suspend_handler()` (R335): a second suspend keeps the saved state. -/
def suspendHandler : M Unit := do
  upd fun s => if s.dev.state = .suspended then s
    else { s with dev := { s.dev with previous := s.dev.state, state := .suspended } }
  hook .suspend

/-- `wakeup_handler()` (R336): the state changes only from `Suspended`. -/
def wakeupHandler : M Unit := do
  upd fun s => if s.dev.state = .suspended then s.setDev s.dev.previous else s
  hook .wakeup

/-- `sof_handler()` (R337). -/
def sofHandler : M Unit := hook .startOfFrame

/-! ## The events as instructions -/

/-- ISTR16 row CTR EP0 OUT (R331). -/
def execCtrEp0Out (s : State) : Host.Outcome State Fault Refusal :=
  outcome (do tested istrCtr; ctrEp0 .dirOut) s

/-- ISTR16 row CTR EP0 IN (R331). -/
def execCtrEp0In (s : State) : Host.Outcome State Fault Refusal :=
  outcome (do tested istrCtr; ctrEp0 .dirIn) s

/-- ISTR16 row CTR EPn OUT (R331, R332). -/
def execCtrEpnOut (n : BitVec 4) (s : State) : Host.Outcome State Fault Refusal :=
  outcome (do tested istrCtr; ctrEpn n .dirOut) s

/-- ISTR16 row CTR EPn IN (R331, R332). -/
def execCtrEpnIn (n : BitVec 4) (s : State) : Host.Outcome State Fault Refusal :=
  outcome (do tested istrCtr; ctrEpn n .dirIn) s

/-- ISTR16 row RESET (R334). -/
def execEvReset (s : State) : Host.Outcome State Fault Refusal :=
  outcome (do tested istrReset; busResetHandler; handled istrReset) s

/-- ISTR16 row WKUP (R336). -/
def execEvWkup (s : State) : Host.Outcome State Fault Refusal :=
  outcome (do tested istrWkup; wakeupHandler; handled istrWkup) s

/-- ISTR16 row SUSP (R335). -/
def execEvSusp (s : State) : Host.Outcome State Fault Refusal :=
  outcome (do tested istrSusp; suspendHandler; handled istrSusp) s

/-- ISTR16 row SOF (R337). -/
def execEvSof (s : State) : Host.Outcome State Fault Refusal :=
  outcome (do tested istrSof; sofHandler; handled istrSof) s

end Sys2Proof.Machine
end

