-- ==== Sys2Proof/Machine/Init.lean ====
section
/-! DEFINITION. The software initialisation (R362, R363): `core_init`, the one foreground write that needs no mask (R341). -/

namespace Sys2Proof.Machine

/-- What `core_init` leaves of the block's state (R362): the table and the context cleared, the device state at its reset
value. -/
def State.initialised (s : State) : State :=
  { s with
    ept := Vector.replicate 8 EptEntry.unregistered
    ctx := Ctx.cleared
    dev := { state := .default, previous := .default, addrPending := false, pendingAddr := 0 } }

/-- `core_init(driver)` (R362). -/
def coreInit (driver : Option DriverFlags) : M Unit :=
  match driver with
  | none => raiseFatal .nullDriverCb
  | some f =>
    if driverComplete f then do
      upd fun s => { s with driver := f }
      regWrite .cntr 0x0001
      regWrite .istr 0x0000
      let s ← getS
      regWrite .btable s.cfg.btableOff
      upd State.initialised
      regWrite .cntr cntrRun
    else raiseFatal .nullDriverCb

/-- CALL8 0x0C, `core_init` (R362). -/
def execCoreInit (driver : Option DriverFlags) (s : State) : Host.Outcome State Fault Refusal :=
  outcome (coreInit driver) s

end Sys2Proof.Machine
end

