-- ==== Sys2Proof/Machine/Requests.lean ====
section
/-! DEFINITION. The request dispatcher and its handlers (spec/44_requests.md).  A request instruction is one dispatch: the
latch, the handler table, the handler, the end of the dispatch (R253). -/

namespace Sys2Proof.Machine

/-- The choice of R253: a request of no point, and one whose slot is null in the device state, are stalled; else the
point's handler `h` runs. -/
def runPoint (pt : Option Point) (h : M Unit) : M Unit :=
  match pt with
  | none => stallResponse sUndefined
  | some q => do
    let s ← getS
    if s.cfg.legalPoint s.dev.state q then h else stallResponse sNotLegal

/-- `dispatch()` (R253) of packet `p`, which maps to dispatch point `pt`, or to none; `h` is the point's handler. -/
def dispatch (p : SetupPacket) (pt : Option Point) (h : M Unit) : M Unit := do
  upd fun s => { s with setup := some p, inDispatch := true, responded := false }
  runPoint pt h
  upd fun s => { s with setup := none, inDispatch := false }

/-- `ep_target(wIndex)` (R267): the endpoint and direction, if valid; above 7 the driver is not called. -/
def epTarget (r : Req) : M (Option (Byte × Dir)) :=
  let num : Byte := (targetNum r).setWidth 8
  if num.toNat ≤ 7 then do
    let ok ← askBool .isEndpointValid [num.setWidth 16, dirArg (targetDir r)]
    pure (if ok then some (num, targetDir r) else none)
  else pure none

/-- The response from `status_buf` (R30): its bytes are written, then sent. -/
def respondStatusBuf (bytes : List Byte) : M Unit := do
  let s ← getS
  match bytes with
  | [b] => do
    memWrite s.cfg.statusBufAddr b
    prepareDataIn s.cfg.statusBufAddr 1
  | b0 :: b1 :: _ => do
    memWrite s.cfg.statusBufAddr b0
    memWrite (s.cfg.statusBufAddr + 1) b1
    prepareDataIn s.cfg.statusBufAddr 2
  | [] => pure ()

/-- The 2-byte GET_STATUS answer whose bits 1:0 are given and whose other bits are 0 (R97). -/
def statusBytes (b0 b1 : Bool) : List Byte := [(BitVec.ofBool b1 ++ BitVec.ofBool b0).setWidth 8, 0]

/-- GET_STATUS (R255, R97). -/
def getStatus (r : Req) : M Unit :=
  if r.recip = 0 then do
    let sp ← askBool .isSelfpowered []
    let rw ← askBool .getRemoteWakeup []
    respondStatusBuf (statusBytes sp rw)
  else if r.recip = 1 then do
    let ok ← askBool .isInterfaceValid [(ifNumber r).setWidth 16]
    if ok then respondStatusBuf (statusBytes false false) else stallResponse sIfInvalid
  else if r.recip = 2 then do
    let t ← epTarget r
    match t with
    | none => stallResponse sEpInvalid
    | some (n, d) => do
      let b ← epGetStall n d
      respondStatusBuf (statusBytes b false)
  else stallResponse sRecipient

/-- CLEAR_FEATURE (R256). -/
def clearFeature (r : Req) : M Unit :=
  if r.recip = 0 then
    if r.wValue = 1 then do
      notify (.cap .setRemoteWakeup) [0]
      prepareStatusIn
    else stallResponse sFeature
  else if r.recip = 2 then
    if r.wValue = 0 then do
      let t ← epTarget r
      match t with
      | none => stallResponse sEpInvalid
      | some (n, d) => do
        epClearStall n d
        notify (.cap .clearStall) [n.setWidth 16, dirArg d]
        prepareStatusIn
    else stallResponse sFeature
  else stallResponse sRecipient

/-- SET_FEATURE (R257). -/
def setFeature (r : Req) : M Unit :=
  if r.recip = 0 then
    if r.wValue = 1 then do
      notify (.cap .setRemoteWakeup) [1]
      prepareStatusIn
    else stallResponse sFeature
  else if r.recip = 2 then
    if r.wValue = 0 then do
      let t ← epTarget r
      match t with
      | none => stallResponse sEpInvalid
      | some (n, d) => do
        epSetStall n d
        prepareStatusIn
    else stallResponse sFeature
  else stallResponse sRecipient

/-- SET_ADDRESS (R258): the address is pending until the Status-In stage. -/
def setAddress (r : Req) : M Unit := do
  upd fun s => { s with dev := { s.dev with pendingAddr := newAddress r, addrPending := true } }
  prepareStatusIn

/-- `desc_len(ty, a)` (R260, R96): the descriptor's own length. -/
def descLen (ty : Byte) (a : Addr) : M Half :=
  if ty = 1 ∨ ty = 3 then do
    let b ← memRead a
    pure (b.setWidth 16)
  else do
    let lo ← memRead (a + 2)
    let hi ← memRead (a + 3)
    pure (le16 lo hi)

/-- The descriptor that the driver answers for a type and an index, if the type is served (R259). -/
def askDescriptor (r : Req) : M (Option (Addr × Addr)) :=
  if valueHigh r = 1 then do
    let x ← ask .deviceDescriptor []
    pure (some x)
  else if valueHigh r = 2 then do
    let x ← ask .configurationDescriptor [(valueLow r).setWidth 16]
    pure (some x)
  else if valueHigh r = 3 then do
    let x ← ask .stringDescriptor [(valueLow r).setWidth 16, r.wIndex]
    pure (some x)
  else if valueHigh r = 15 then do
    let x ← ask .bosDescriptor []
    pure (some x)
  else pure none

/-- GET_DESCRIPTOR (R259). -/
def getDescriptor (r : Req) : M Unit := do
  let d ← askDescriptor r
  match d with
  | none => stallResponse sDescriptor
  | some (a, n) =>
    if n = 0 then stallResponse sDescriptor
    else do
      let len ← descLen (valueHigh r) a
      let p ← readSetup
      prepareDataIn a ((if len.toNat ≤ p.wLength.toNat then len else p.wLength).setWidth 32)

/-- SET_DESCRIPTOR (R261): the driver gives at most one response. -/
def setDescriptor (p : SetupPacket) : M Unit := notify (.cap .setDescriptor) (packetArgs p)

/-- GET_CONFIGURATION (R262). -/
def getConfiguration : M Unit := do
  let v ← askByte .getConfiguration []
  respondStatusBuf [v]

/-- SET_CONFIGURATION (R263): the device state changes at once. -/
def setConfiguration (r : Req) : M Unit := do
  let ok ← askBool .isConfigurationValid [(valueLow r).setWidth 16]
  if ok then do
    notify (.cap .setConfiguration) [(valueLow r).setWidth 16]
    upd fun s => s.setDev (if valueLow r ≠ 0 then .configured else .addressed)
    prepareStatusIn
  else stallResponse sCfgInvalid

/-- GET_INTERFACE (R264). -/
def getInterface (r : Req) : M Unit := do
  let ok ← askBool .isInterfaceValid [(ifNumber r).setWidth 16]
  if ok then do
    let v ← askByte .getInterface [(ifNumber r).setWidth 16]
    respondStatusBuf [v]
  else stallResponse sIfInvalid

/-- SET_INTERFACE (R265). -/
def setInterface (r : Req) : M Unit := do
  let ok ← askBool .isInterfaceValid [(ifNumber r).setWidth 16]
  if ok then do
    notify (.cap .setInterface) [(ifNumber r).setWidth 16, (valueLow r).setWidth 16]
    prepareStatusIn
  else stallResponse sIfInvalid

/-- SYNCH_FRAME (R266): always a stall. -/
def synchFrame : M Unit := stallResponse sSynchFrame

/-- The forwarding of a class or vendor request (R254): a null callback is a fatal assertion. -/
def forward (c : Cap) (p : SetupPacket) : M Unit := do
  let s ← getS
  if hasCap s.driver c then notify (.cap c) (packetArgs p) else raiseFatal .nullDriverCb

/-! ## The requests as instructions -/

/-- SETUP8 row STD GET_STATUS (R255). -/
def execGetStatus (r : Req) (s : State) : Host.Outcome State Fault Refusal :=
  outcome (dispatch (r.packet 0 0) (some .getStatus) (getStatus r)) s

/-- SETUP8 row STD CLEAR_FEATURE (R256). -/
def execClearFeature (r : Req) (s : State) : Host.Outcome State Fault Refusal :=
  outcome (dispatch (r.packet 0 1) (some .clearFeature) (clearFeature r)) s

/-- SETUP8 row STD SET_FEATURE (R257). -/
def execSetFeature (r : Req) (s : State) : Host.Outcome State Fault Refusal :=
  outcome (dispatch (r.packet 0 3) (some .setFeature) (setFeature r)) s

/-- SETUP8 row STD SET_ADDRESS (R258). -/
def execSetAddress (r : Req) (s : State) : Host.Outcome State Fault Refusal :=
  outcome (dispatch (r.packet 0 5) (some .setAddress) (setAddress r)) s

/-- SETUP8 row STD GET_DESCRIPTOR (R259). -/
def execGetDescriptor (r : Req) (s : State) : Host.Outcome State Fault Refusal :=
  outcome (dispatch (r.packet 0 6) (some .getDescriptor) (getDescriptor r)) s

/-- SETUP8 row STD SET_DESCRIPTOR (R261). -/
def execSetDescriptor (r : Req) (s : State) : Host.Outcome State Fault Refusal :=
  outcome (dispatch (r.packet 0 7) (some .setDescriptor) (setDescriptor (r.packet 0 7))) s

/-- SETUP8 row STD GET_CONFIGURATION (R262). -/
def execGetConfiguration (r : Req) (s : State) : Host.Outcome State Fault Refusal :=
  outcome (dispatch (r.packet 0 8) (some .getConfiguration) getConfiguration) s

/-- SETUP8 row STD SET_CONFIGURATION (R263). -/
def execSetConfiguration (r : Req) (s : State) : Host.Outcome State Fault Refusal :=
  outcome (dispatch (r.packet 0 9) (some .setConfiguration) (setConfiguration r)) s

/-- SETUP8 row STD GET_INTERFACE (R264). -/
def execGetInterface (r : Req) (s : State) : Host.Outcome State Fault Refusal :=
  outcome (dispatch (r.packet 0 10) (some .getInterface) (getInterface r)) s

/-- SETUP8 row STD SET_INTERFACE (R265). -/
def execSetInterface (r : Req) (s : State) : Host.Outcome State Fault Refusal :=
  outcome (dispatch (r.packet 0 11) (some .setInterface) (setInterface r)) s

/-- SETUP8 row STD SYNCH_FRAME (R266). -/
def execSynchFrame (r : Req) (s : State) : Host.Outcome State Fault Refusal :=
  outcome (dispatch (r.packet 0 12) (some .synchFrame) synchFrame) s

/-- SETUP8 row STD undefined (R253): a stall. -/
def execStdUndefined (b : Byte) (r : Req) (s : State) : Host.Outcome State Fault Refusal :=
  outcome (dispatch (r.packet 0 b) none (pure ())) s

/-- SETUP8 row CLASS (R254). -/
def execClassRequest (b : Byte) (r : Req) (s : State) : Host.Outcome State Fault Refusal :=
  outcome (dispatch (r.packet 1 b) (some .classPoint) (forward .classRequest (r.packet 1 b))) s

/-- SETUP8 row VENDOR (R254). -/
def execVendorRequest (b : Byte) (r : Req) (s : State) : Host.Outcome State Fault Refusal :=
  outcome (dispatch (r.packet 2 b) (some .vendorPoint) (forward .vendorRequest (r.packet 2 b))) s

/-- SETUP8 row RESERVED (R253): a stall. -/
def execReservedType (b : Byte) (r : Req) (s : State) : Host.Outcome State Fault Refusal :=
  outcome (dispatch (r.packet 3 b) none (pure ())) s

end Sys2Proof.Machine
end

