-- ==== Sys2Proof/Machine/Stages.lean ====
section
/-! DEFINITION. The five stage functions (spec/43_control_fsm.md), which `ctx.stage` selects (R210).  Each runs on the
event of the completion that called the endpoint-0 callback. -/

namespace Sys2Proof.Machine

/-- The event that the callback was called with; the callback is no longer due. -/
def takeEvent : M Ev := fun s => .ok (s.ev, { s with stageDue := false })

/-- `b` of R211: the eight bytes from the EP0 OUT buffer, word by word. -/
def readPacket : M SetupPacket := do
  let s ← getS
  let k := s.cfg.ep0RxOff.toNat / 2
  let w0 ← pmaRead16 k
  let w1 ← pmaRead16 (k + 1)
  let w2 ← pmaRead16 (k + 2)
  let w3 ← pmaRead16 (k + 3)
  pure { bmRequestType := byteAt w0 0, bRequest := byteAt w0 1, wValue := w1, wIndex := w2, wLength := w3 }

/-- `Setup_stage` (R211, R213).  Its last act is to start the dispatch of the latched packet (R253): the next step fetches
the packet as a request. -/
def setupStage (e : Ev) : M Unit := do
  if e.dir = .dirIn ∨ e.setup = false then stallBoth sNotSetup
  else do
    let w ← bdRead 0 .countRx
    if countOf w ≠ 8 then stallBoth sSetupLen
    else do
      let p ← readPacket
      upd fun s => { s with setup := some p, inDispatch := true, responded := false }

/-- `DataIn_stage` (R215). -/
def dataInStage : M Unit := do
  let s ← getS
  if s.ctx.remaining ≠ 0 then do
    sendChunk
    setStatusAt 0 .dirIn .valid
  else enterStatusOut

/-- `DataOut_stage` (R220). -/
def dataOutStage : M Unit := do
  let rc ← receiveChunk
  let s ← getS
  if s.ctx.remaining = 0 ∨ (s.cfg.shortOutEnds = true ∧ rc < s.cfg.mps0) then enterStatusIn
  else setStatusAt 0 .dirOut .valid

/-- The device state that a new address leaves (R225, R26). -/
def addressedState (a : BitVec 7) (d : DevState) : DevState :=
  if a ≠ 0 ∧ d = .default then .addressed
  else if a = 0 ∧ d = .addressed then .default
  else d

/-- `apply_pending_address()` (R225). -/
def applyPendingAddress : M Unit := do
  let s ← getS
  regWrite .daddr ((daddrOf s.dev.pendingAddr).setWidth 16)
  upd fun t => { t with dev := { t.dev with addrPending := false,
                                            state := addressedState s.dev.pendingAddr t.dev.state } }

/-- The deferred address, if one is pending (R224). -/
def applyIfPending : M Unit := do
  let s ← getS
  if s.dev.addrPending then applyPendingAddress else pure ()

/-- The completion callback, if there is one (R224). -/
def runCompletion : M Unit := do
  let s ← getS
  match s.ctx.completion with
  | some cb => notify (.callback cb) []
  | none => pure ()

/-- `StatusIn_stage` (R224). -/
def statusInStage : M Unit := do
  applyIfPending
  runCompletion
  clearCtx
  setStatusAt 0 .dirOut .valid

/-- `StatusOut_stage` (R226). -/
def statusOutStage : M Unit := do
  clearKindAt 0
  clearCtx
  setStatusAt 0 .dirOut .valid

/-! ## The stages as instructions -/

/-- STAGE3 0b000, `Setup` (R211). -/
def execStageSetup (s : State) : Host.Outcome State Fault Refusal :=
  outcome (do
    let e ← takeEvent
    setupStage e) s

/-- STAGE3 0b001, `DataIn` (R215). -/
def execStageDataIn (s : State) : Host.Outcome State Fault Refusal :=
  outcome (do
    let _ ← takeEvent
    dataInStage) s

/-- STAGE3 0b010, `DataOut` (R220). -/
def execStageDataOut (s : State) : Host.Outcome State Fault Refusal :=
  outcome (do
    let _ ← takeEvent
    dataOutStage) s

/-- STAGE3 0b011, `StatusIn` (R224). -/
def execStageStatusIn (s : State) : Host.Outcome State Fault Refusal :=
  outcome (do
    let _ ← takeEvent
    statusInStage) s

/-- STAGE3 0b100, `StatusOut` (R226). -/
def execStageStatusOut (s : State) : Host.Outcome State Fault Refusal :=
  outcome (do
    let _ ← takeEvent
    statusOutStage) s

end Sys2Proof.Machine
end

