-- ==== Sys2Proof/Machine/Tokens.lean ====
section
/-! DEFINITION. The host transactions and bus events as instructions (spec/45_sie_host.md): each is one atomic step of the
SIE/host agent (R290), the transactions themselves standing in Machine/Ops.lean, where the block's windows run them too. -/

namespace Sys2Proof.Machine

/-- TOKEN 0x2D, SETUP (R292). -/
def execHostSetup (a : BitVec 7) (e : BitVec 4) (d : List Byte) (s : State) : Host.Outcome State Fault Refusal :=
  outcome (sieStep (.setup a e d)) s

/-- TOKEN 0xE1, OUT (R293). -/
def execHostOut (a : BitVec 7) (e : BitVec 4) (d : List Byte) (s : State) : Host.Outcome State Fault Refusal :=
  outcome (sieStep (.out a e d)) s

/-- TOKEN 0x69, IN (R294). -/
def execHostIn (a : BitVec 7) (e : BitVec 4) (s : State) : Host.Outcome State Fault Refusal :=
  outcome (sieStep (.inn a e)) s

/-- TOKEN 0xA5, SOF (R300). -/
def execHostSof (f : BitVec 11) (s : State) : Host.Outcome State Fault Refusal :=
  outcome (sieStep (.sof f)) s

/-- Bus event BUSRESET (R297). -/
def execHostBusReset (s : State) : Host.Outcome State Fault Refusal :=
  outcome (sieStep .busReset) s

/-- Bus event SUSPEND (R298). -/
def execHostSuspend (s : State) : Host.Outcome State Fault Refusal :=
  outcome (sieStep .suspend) s

/-- Bus event RESUME (R299). -/
def execHostResume (s : State) : Host.Outcome State Fault Refusal :=
  outcome (sieStep .resume) s

end Sys2Proof.Machine
end

