-- ==== Sys2Proof/Machine/Dispatch.lean ====
section
/-! DEFINITION. The dispatch of an instruction to its meaning: one arm per constructor of `Instr`. -/

namespace Sys2Proof.Machine

def exec (i : Instr) (s : State) : Host.Outcome State Fault Refusal :=
  match i with
  | .getStatus r => Sys2Proof.Machine.execGetStatus r s
  | .clearFeature r => Sys2Proof.Machine.execClearFeature r s
  | .setFeature r => Sys2Proof.Machine.execSetFeature r s
  | .setAddress r => Sys2Proof.Machine.execSetAddress r s
  | .getDescriptor r => Sys2Proof.Machine.execGetDescriptor r s
  | .setDescriptor r => Sys2Proof.Machine.execSetDescriptor r s
  | .getConfiguration r => Sys2Proof.Machine.execGetConfiguration r s
  | .setConfiguration r => Sys2Proof.Machine.execSetConfiguration r s
  | .getInterface r => Sys2Proof.Machine.execGetInterface r s
  | .setInterface r => Sys2Proof.Machine.execSetInterface r s
  | .synchFrame r => Sys2Proof.Machine.execSynchFrame r s
  | .stdUndefined bRequest r => Sys2Proof.Machine.execStdUndefined bRequest r s
  | .classRequest bRequest r => Sys2Proof.Machine.execClassRequest bRequest r s
  | .vendorRequest bRequest r => Sys2Proof.Machine.execVendorRequest bRequest r s
  | .reservedType bRequest r => Sys2Proof.Machine.execReservedType bRequest r s
  | .ctrEp0Out => Sys2Proof.Machine.execCtrEp0Out s
  | .ctrEp0In => Sys2Proof.Machine.execCtrEp0In s
  | .ctrEpnOut n => Sys2Proof.Machine.execCtrEpnOut n s
  | .ctrEpnIn n => Sys2Proof.Machine.execCtrEpnIn n s
  | .evReset => Sys2Proof.Machine.execEvReset s
  | .evWkup => Sys2Proof.Machine.execEvWkup s
  | .evSusp => Sys2Proof.Machine.execEvSusp s
  | .evSof => Sys2Proof.Machine.execEvSof s
  | .stageSetup => Sys2Proof.Machine.execStageSetup s
  | .stageDataIn => Sys2Proof.Machine.execStageDataIn s
  | .stageDataOut => Sys2Proof.Machine.execStageDataOut s
  | .stageStatusIn => Sys2Proof.Machine.execStageStatusIn s
  | .stageStatusOut => Sys2Proof.Machine.execStageStatusOut s
  | .prepareDataIn buf count => Sys2Proof.Machine.execPrepareDataIn buf count s
  | .prepareDataOut buf count onComplete => Sys2Proof.Machine.execPrepareDataOut buf count onComplete s
  | .prepareStatusIn => Sys2Proof.Machine.execPrepareStatusIn s
  | .pmaRead offset dst count => Sys2Proof.Machine.execPmaRead offset dst count s
  | .pmaWrite src offset count => Sys2Proof.Machine.execPmaWrite src offset count s
  | .registerEndpoint ep ty txAddr rxAddr rxCount onIn onOut => Sys2Proof.Machine.execRegisterEndpoint ep ty txAddr rxAddr rxCount onIn onOut s
  | .registerEndpointTx ep ty txAddr onIn => Sys2Proof.Machine.execRegisterEndpointTx ep ty txAddr onIn s
  | .registerEndpointRx ep ty rxAddr rxCount onOut => Sys2Proof.Machine.execRegisterEndpointRx ep ty rxAddr rxCount onOut s
  | .registerEndpointDoubleTx ep ty addr0 addr1 onIn => Sys2Proof.Machine.execRegisterEndpointDoubleTx ep ty addr0 addr1 onIn s
  | .registerEndpointDoubleRx ep ty addr0 addr1 rxCount onOut => Sys2Proof.Machine.execRegisterEndpointDoubleRx ep ty addr0 addr1 rxCount onOut s
  | .unregisterEndpoint ep => Sys2Proof.Machine.execUnregisterEndpoint ep s
  | .coreInit driver => Sys2Proof.Machine.execCoreInit driver s
  | .epConfigure n ty txAddr rxAddr rxCount => Sys2Proof.Machine.execEpConfigure n ty txAddr rxAddr rxCount s
  | .epConfigureTx n ty txAddr => Sys2Proof.Machine.execEpConfigureTx n ty txAddr s
  | .epConfigureRx n ty rxAddr rxCount => Sys2Proof.Machine.execEpConfigureRx n ty rxAddr rxCount s
  | .epConfigureDoubleTx n ty addr0 addr1 => Sys2Proof.Machine.execEpConfigureDoubleTx n ty addr0 addr1 s
  | .epConfigureDoubleRx n ty addr0 addr1 rxCount => Sys2Proof.Machine.execEpConfigureDoubleRx n ty addr0 addr1 rxCount s
  | .epClearConfiguration n => Sys2Proof.Machine.execEpClearConfiguration n s
  | .epSetStall n dir => Sys2Proof.Machine.execEpSetStall n dir s
  | .epClearStall n dir => Sys2Proof.Machine.execEpClearStall n dir s
  | .epGetStall n dir => Sys2Proof.Machine.execEpGetStall n dir s
  | .epSetStatus n dir st => Sys2Proof.Machine.execEpSetStatus n dir st s
  | .epSetKind n => Sys2Proof.Machine.execEpSetKind n s
  | .epClearKind n => Sys2Proof.Machine.execEpClearKind n s
  | .epClearTransferComplete n dir => Sys2Proof.Machine.execEpClearTransferComplete n dir s
  | .stallEp0 cause => Sys2Proof.Machine.execStallEp0 cause s
  | .hostSetup addr ep data => Sys2Proof.Machine.execHostSetup addr ep data s
  | .hostOut addr ep data => Sys2Proof.Machine.execHostOut addr ep data s
  | .hostIn addr ep => Sys2Proof.Machine.execHostIn addr ep s
  | .hostSof frame => Sys2Proof.Machine.execHostSof frame s
  | .hostBusReset => Sys2Proof.Machine.execHostBusReset s
  | .hostSuspend => Sys2Proof.Machine.execHostSuspend s
  | .hostResume => Sys2Proof.Machine.execHostResume s

end Sys2Proof.Machine
end

