-- ==== Sys2Proof/Machine/Fetch.lean ====
section
/-! DEFINITION. What the machine does next (R12, R70, R328): in a dispatch it fetches the latched setup packet, with the
endpoint-0 callback due the stage register, in an invocation the untested part of the snapshot, and else the next line of
the trace.  Each fetched input is one of the five kinds of R90. -/

namespace Sys2Proof.Machine

/-- What a step is about: an encoded input to decode and run from a state, or a step that runs no instruction. -/
inductive Fetched where
  | input (e : Enc) (t : State)
  | own (o : Host.Outcome State Fault Refusal)

/-- The foreground writes a peripheral register at a bus address (R62, R341): bits 31:16 are ignored.  That it may so write `CNTR`,
although R363 has `CNTR = 0x9E00` for the rest of the run, or `DADDR` and `BTABLE`, is the model's choice (log 34). -/
def foregroundWrite (a v : Addr) : M Unit := do
  requireWriter
  let s ← getS
  match regAtBus s.cfg a with
  | some r => regWrite r (slotWrite v)
  | none => refuse .outsideBlock

/-- The foreground reads a peripheral register at a bus address (R62); a read needs no mask (R341).  The packet memory has no bus
address here, since the spec gives no mapping of its words to any (N12): `foregroundGet` reads it by word index. -/
def foregroundRead (a : Addr) : M Unit := do
  let s ← getS
  match regAtBus s.cfg a with
  | some r => do
    let w ← regRead r
    upd fun t => { t with busData := slotRead w }
  | none => refuse .outsideBlock

/-- The value of a piece of shared state (R341).  The setup latch read outside a dispatch is `Fault(SETUP_NOT_LATCHED)` (R24); a word
past the packet memory is `Fault(PMA_BOUNDS)` (R67), an unmapped byte `Fault(CPU_BUS)` (R61). -/
def readShared (x : Shared) : M SharedValue := do
  let s ← getS
  match x with
  | .pmaWord k => do
    let w ← pmaRead16 k
    pure (.half w)
  | .cpuByte a => do
    let b ← memRead a
    pure (.byte b)
  | .setup => do
    let p ← readSetup
    pure (.packet p)
  | .ctxBuffer => pure (.addr s.ctx.buffer)
  | .ctxRemaining => pure (.addr s.ctx.remaining)
  | .ctxStage => pure (.stage s.ctx.stage)
  | .ctxCompletion => pure (.callback s.ctx.completion)
  | .devState => pure (.devState s.dev.state)
  | .devPrevious => pure (.devState s.dev.previous)
  | .addrPending => pure (.flag s.dev.addrPending)
  | .pendingAddr => pure (.devAddr s.dev.pendingAddr)
  | .eptMode n => pure (.mode s.ept[n].mode)
  | .eptType n => pure (.type s.ept[n].ty)
  | .eptTxAddr n => pure (.half s.ept[n].txAddr)
  | .eptRxAddr n => pure (.half s.ept[n].rxAddr)
  | .eptRxCount n => pure (.half s.ept[n].rxCount)
  | .eptCallback n d => pure (.callback (s.ept[n].callback d))
  | .fatal => pure (.cause s.fatal)
  | .inIsr => pure (.flag s.inIsr)
  | .irqMasked => pure (.flag s.irqMasked)

/-- The foreground reads a piece of shared state by its name; a read needs no mask (R341). -/
def foregroundGet (x : Shared) : M Unit := do
  let v ← readShared x
  upd fun t => { t with seen := some v }

/-- The block's `status_buf` is shared state: only a writer may change it (R30, R61, R341). -/
def requireStore (a : Addr) : M Unit := do
  let s ← getS
  if inStatusBuf s.cfg a then requireWriter else pure ()

/-- The foreground writes a byte of CPU memory of its own (R61, R374). -/
def foregroundStore (a : Addr) (v : Byte) : M Unit := do
  requireStore a
  memWrite a v

/-- The next line of the trace, already taken off it (R106, R341). -/
def fetchItem (it : Item) (t : State) : Fetched :=
  match it with
  | .host bs => .input (.token bs) t
  | .event e => .input (.event e) t
  | .call bs => .input (.call8 bs) t
  | .isr => if entryDue t then .own (outcome isrEnter t) else .own (.refused .isrNotDue)
  | .drv d => .own (.next { t with answers := t.answers ++ [d] })
  | .interleave w => .own (.next { t with window := t.window ++ w })
  | .mask => .own (.next { t with irqMasked := true })
  | .unmask => .own (.next { t with irqMasked := false })
  | .busWrite a v => .own (outcome (foregroundWrite a v) t)
  | .busRead a => .own (outcome (foregroundRead a) t)
  | .read x => .own (outcome (foregroundGet x) t)
  | .store a v => .own (outcome (foregroundStore a v) t)

/-- The end of the trace: an invocation starts if one is due (R328), else the block waits for the host (R387). -/
def fetchNone (s : State) : Fetched :=
  if entryDue s then .own (outcome isrEnter s) else .own (.next s)

/-- What the next step is about.  After a fatal assertion the ISR and the foreground take no step
(R323); that the SIE stops too is the model's choice (log 15). -/
def fetch (s : State) : Fetched :=
  match s.fatal with
  | some c => .own (.fault (.halted c))
  | none =>
    if s.inDispatch then
      match s.setup with
      | some p => .input (.setup8 p.bytes) s
      | none => .own (.fault .setupNotLatched)
    else if s.stageDue then .input (.stage3 s.ctx.stage) s
    else if s.inIsr then .input (.istr16 s.isrPending) s
    else
      match s.trace with
      | it :: rest => fetchItem it { s with trace := rest }
      | [] => fetchNone s

/-- A fetched input that decodes to nothing: a stage value above 4 is `Fault(BAD_STAGE)` (R101); a snapshot with no tested
condition left ends the invocation (R330); an unassigned command is refused (R102); for a record of another PID the SIE
takes no step (R104); a record cut short is no input. -/
def undecodable (e : DecodeError) (t : State) : Host.Outcome State Fault Refusal :=
  match e with
  | .badStage => .fault .badStage
  | .noEvent => outcome isrReturn t
  | .unassignedCall id => .refused (.unassignedCall id)
  | .noStepPid _ => .next t
  | .setupLength | .badArguments | .badToken => .refused .malformedRecord

/-- `s` with an encoded input where the next step fetches it: a setup packet latched in a running dispatch, an event in a
running invocation, a stage value with the callback due, a command or a token as the next line (a command with the
interrupt masked, as `CALL` runs it, R106). -/
def placeInput (s : State) (e : Enc) : State :=
  match e with
  | .setup8 bs => { s with setup := parseSetup bs, inDispatch := true }
  | .istr16 w => { s with inDispatch := false, stageDue := false, inIsr := true, isrPending := w }
  | .stage3 w => { s with inDispatch := false, stageDue := true, ctx := { s.ctx with stage := w } }
  | .call8 bs => { s with inDispatch := false, stageDue := false, inIsr := false, irqMasked := true,
                          trace := .call bs :: s.trace }
  | .token bs => { s with inDispatch := false, stageDue := false, inIsr := false, trace := .host bs :: s.trace }
  | .event v => { s with inDispatch := false, stageDue := false, inIsr := false, trace := .event v :: s.trace }

end Sys2Proof.Machine
end

