-- ==== Sys2Proof/Machine/Step.lean ====
section
/-! DEFINITION. One step of the machine: fetch, decode, run (R70, R90). -/

namespace Sys2Proof.Machine

/-- One step. -/
def step (s : State) : Host.Outcome State Fault Refusal :=
  match fetch s with
  | .own o => o
  | .input e t =>
    match decode e with
    | .ok i => exec i t
    | .error d => undecodable d t

/-- `s` with the instruction of an opcode-table word where the next step fetches it. -/
def State.withFetchWord (s : State) (nbits w : Nat) : State := placeInput s (tableEnc nbits w)

end Sys2Proof.Machine
end

