-- ==== Sys2Proof/Safety.lean ====
section
/-! DEFINITION. What the statements speak of: the absence of an SIE step inside an operation, when an access is allowed, the
states that the shared operations leave, the machine's invariant, and the start and the end of a run (R387). -/

namespace Sys2Proof.Machine

/-! ## When an operation may run -/

/-- No SIE step falls between the block's next atomic steps (R70): what R154 calls `r = snap`. -/
abbrev Quiet (s : State) : Prop := s.window = []

/-- A writer of shared state may run: the interrupt context, or the foreground with the interrupt masked (R341). -/
abbrev Writer (s : State) : Prop := s.inIsr = true ∨ s.irqMasked = true

/-- A response may be given (R228). -/
abbrev MayRespond (s : State) : Prop := s.inDispatch = true ∧ s.responded = false

/-- The driver's answers to come do nothing but answer (R250). -/
abbrev Passive (s : State) : Prop := ∀ d ∈ s.answers, d.acts = []

/-- The endpoint number is one of the eight (R155 to R167). -/
abbrev epOf (n : Byte) (h : n.toNat < 8) : Fin 8 := ⟨n.toNat, h⟩

/-! ## Packet-memory writes -/

/-- Words written in turn. -/
def Memory.writeWords (m : Memory) : List (Nat × Half) → Memory
  | [] => m
  | (k, v) :: ws => Memory.writeWords (m.writeWord k v) ws

/-- Packet-memory words written in turn. -/
def State.putWords (s : State) (ws : List (Nat × Half)) : State := { s with pma := s.pma.writeWords ws }

/-- Each word lies in the packet memory (R67) and is not the SIE's at the step that writes it (R72). -/
def wordsFree (s : State) : List (Nat × Half) → Bool
  | [] => true
  | (k, v) :: ws => decide (2 * k + 2 ≤ s.cfg.pmaBytes) && !sieOwns s k && wordsFree (s.putWords [(k, v)]) ws

/-- Descriptor fields of endpoint `n` with their words (R45). -/
def bdWords (c : Params) (n : Fin 8) (fs : List (BdField × Half)) : List (Nat × Half) :=
  fs.map fun x => (bdIndex c n x.1, x.2)

/-- The words that `pma_write` writes (R140): pairs of bytes, low byte first, and an odd last byte under a free one. -/
def packedWords (s : State) (src : Addr) (offset count : Half) : List (Nat × Half) :=
  (List.range (count.toNat / 2)).map (fun i =>
    (offset.toNat / 2 + i, le16 (s.cpu.read (src + BitVec.ofNat 32 (2 * i)).toNat)
      (s.cpu.read (src + BitVec.ofNat 32 (2 * i) + 1).toNat)))
  ++ (if count.getLsbD 0 then
        [(offset.toNat / 2 + count.toNat / 2,
          le16 (s.cpu.read (src + count.setWidth 32 - 1).toNat) (Config.freeByte s.draws))]
      else [])

/-- `n` bytes of CPU memory from `a` on are mapped (R61). -/
def mappedFrom (c : Params) (a : Addr) (n : Nat) : Bool :=
  (List.range n).all fun i => c.mapped (a + BitVec.ofNat 32 i)

/-- `pma_write` may run (R66, R67, R72). -/
def pmaWritable (s : State) (src : Addr) (offset count : Half) : Bool :=
  decide (offset.toNat % 2 = 0) && (decide (count = 0) || decide (offset.toNat + count.toNat ≤ s.cfg.pmaBytes))
  && mappedFrom s.cfg src count.toNat && wordsFree s (packedWords s src offset count)

/-- `pma_read` may run (R66, R67), in a packet memory of whole words (R50); a word that the SIE owns may be read (R72). -/
def pmaReadable (s : State) (offset : Half) (dst : Addr) (count : Half) : Bool :=
  decide (s.cfg.pmaBytes % 2 = 0) && decide (offset.toNat % 2 = 0) && (decide (count = 0) || decide (offset.toNat + count.toNat ≤ s.cfg.pmaBytes))
  && mappedFrom s.cfg dst count.toNat

/-- What `pma_write` leaves. -/
def State.packed (s : State) (src : Addr) (offset count : Half) : State :=
  { s with pma := s.pma.writeWords (packedWords s src offset count), draws := s.draws + count.toNat % 2 }

/-- CPU bytes written in turn from `a` on; the address wraps modulo 2^32 (R15). -/
def Memory.writeFrom (m : Memory) (a : Addr) : List Byte → Memory
  | [] => m
  | b :: bs => Memory.writeFrom (m.write a.toNat b) (a + 1) bs

/-- What `pma_read` leaves. -/
def State.unpacked (s : State) (offset : Half) (dst : Addr) (count : Half) : State :=
  { s with cpu := s.cpu.writeFrom dst (s.pma.bytes offset.toNat count.toNat) }

/-! ## Endpoint registers -/

/-- What every configuration leaves in the register (R162 to R167): its own fields, the flags and `SETUP` kept. -/
def configured (r : Half) (ty : EpType) (kind : Bool) (n : Fin 8) (rx tx : Stat) : Half :=
  (r &&& 0x8880) ||| (statAt .dirOut rx ||| statAt .dirIn tx) ||| plainBits ty kind n



/-- `EPR[0]` with one direction's status set (R155). -/
def State.setStat0 (s : State) (d : Dir) (st : Stat) : State := s.setEpr 0 (putBits s.epr[0] (statMask d) (statAt d st))

/-- An endpoint register with one direction stalled unless it is disabled (R156). -/
def stalledDir (r : Half) (d : Dir) : Half :=
  if statOf d r = .disabled then r else putBits r (statMask d) (statAt d .stall)

/-- An endpoint register with one direction's stall cleared and its toggle reset, if it is stalled (R157). -/
def unstalledDir (r : Half) (d : Dir) : Half :=
  if statOf d r = .stall then putBits r (statMask d ||| dtogMask d) (statAt d (clearedStall d)) else r

/-- What `stall_ep0(cause)` leaves (R231): both directions of endpoint 0 stalled, the context cleared, the cause noted in the
record of R321. -/
def State.stalled (s : State) (cause : Byte) : State :=
  { (s.setEpr 0 (stalledDir (stalledDir s.epr[0] .dirIn) .dirOut)).clearCtx with stalls := cause :: s.stalls }

/-- A response has been given (R228). -/
def State.answered (s : State) : State := { s with responded := true }

/-- The number of bytes of the next IN packet (R216). -/
def chunk (s : State) : Half := BitVec.ofNat 16 (min s.ctx.remaining.toNat s.cfg.mps0)

/-- `send_chunk` may run (R216). -/
def chunkWritable (s : State) : Bool :=
  pmaWritable s s.ctx.buffer s.cfg.ep0TxOff (chunk s)
  && wordsFree (s.packed s.ctx.buffer s.cfg.ep0TxOff (chunk s)) (bdWords s.cfg 0 [(.countTx, chunk s)])

/-- What `send_chunk` leaves (R216). -/
def State.chunkSent (s : State) : State :=
  { (s.packed s.ctx.buffer s.cfg.ep0TxOff (chunk s)).putWords (bdWords s.cfg 0 [(.countTx, chunk s)]) with
    ctx := s.ctx.advance (min s.ctx.remaining.toNat s.cfg.mps0) }

/-- The context that `prepare_data_in_stage` sets: the count clamped to `wLength` (R214). -/
def State.dataInCtx (s : State) (p : SetupPacket) (buf count : Addr) : State :=
  { s.answered with ctx :=
      { buffer := buf, remaining := if count.toNat ≤ p.wLength.toNat then count else p.wLength.setWidth 32,
        stage := stDataIn, completion := none } }

/-- What `prepare_data_in_stage` leaves (R214). -/
def State.dataIn (s : State) (p : SetupPacket) (buf count : Addr) : State :=
  let t := (s.dataInCtx p buf count).chunkSent
  (t.setStat0 .dirOut (rxStatFor s.cfg p.wLength (s.dataInCtx p buf count).ctx.remaining)).setStat0 .dirIn .valid

/-- `COUNT_TX` of endpoint 0 may be written (R222). -/
abbrev StatusInFree (s : State) : Prop := wordsFree s (bdWords s.cfg 0 [(.countTx, 0)]) = true

/-- What `enter_status_in` leaves (R222). -/
def State.statusInEntered (s : State) : State :=
  ((s.setStage stStatusIn).putWords (bdWords s.cfg 0 [(.countTx, 0)])).setStat0 .dirIn .valid

/-- What `prepare_status_in_stage` leaves (R223). -/
def State.statusIn (s : State) : State :=
  ({ s.answered with ctx := { buffer := 0, remaining := 0, stage := stStatusIn, completion := none } }).statusInEntered

/-- What `enter_status_out` leaves (R218): `EP_KIND` set, the OUT direction armed, the stage `StatusOut`. -/
def State.statusOutEntered (s : State) : State :=
  ((s.setEpr 0 (s.epr[0] ||| kindBit)).setStat0 .dirOut .valid).setStage stStatusOut

/-! ## The driver -/

/-- What a call outside the block leaves, when the driver only answers: the call recorded, its answer taken (R250). -/
def State.told (s : State) (c : Callee) (args : List Half) : State :=
  match takeAnswer c s.answers with
  | none => { s with calls := { callee := c, args := args } :: s.calls }
  | some (_, rest) => { s with calls := { callee := c, args := args } :: s.calls, answers := rest }

/-- The driver's answer: that of the next `DRV` line for the capability, or free values (U8, R250). -/
def answerOf (s : State) (c : Cap) : Addr × Addr :=
  match takeAnswer (.cap c) s.answers with
  | none => (Config.freeAnswer s.draws, Config.freeCount s.draws)
  | some (d, _) => (d.a, d.n)

/-- The driver says yes. -/
def saysYes (s : State) (c : Cap) : Bool := (answerOf s c).1.getLsbD 0

/-- What a call that answers leaves: as `told`, and a free value drawn where no `DRV` line answers. -/
def State.asked (s : State) (c : Cap) (args : List Half) : State :=
  match takeAnswer (.cap c) s.answers with
  | none => { s.told (.cap c) args with draws := s.draws + 1 }
  | some _ => s.told (.cap c) args

/-! ## Dispatches -/

/-- The state in which a dispatch's handler starts (R253). -/
def State.latched (s : State) (p : SetupPacket) : State :=
  { s with setup := some p, inDispatch := true, responded := false }

/-- The end of a dispatch: the latch is dead (R24, R253). -/
def State.endDispatch (s : State) : State := { s with setup := none, inDispatch := false }

/-- What a dispatch leaves that stalls before it calls the driver. -/
def State.stallDispatch (s : State) (p : SetupPacket) (cause : Byte) : State :=
  ((s.latched p).answered.stalled cause).endDispatch

/-- `status_buf` may be written (R30). -/
abbrev StatusBufMapped (s : State) : Prop :=
  s.cfg.mapped s.cfg.statusBufAddr = true ∧ s.cfg.mapped (s.cfg.statusBufAddr + 1) = true

/-- `status_buf` written (R30). -/
def State.statusBuf (s : State) (bs : List Byte) : State :=
  { s with cpu := s.cpu.writeFrom s.cfg.statusBufAddr bs }

/-- A response from `status_buf` may run: the bytes can be written and sent (R30, R214). -/
def statusBufSendable (s : State) (p : SetupPacket) (bs : List Byte) : Bool :=
  decide (StatusBufMapped s) && chunkWritable ((s.statusBuf bs).dataInCtx p s.cfg.statusBufAddr (BitVec.ofNat 32 bs.length))

/-- What a response from `status_buf` leaves. -/
def State.statusBufSent (s : State) (p : SetupPacket) (bs : List Byte) : State :=
  (s.statusBuf bs).dataIn p s.cfg.statusBufAddr (BitVec.ofNat 32 bs.length)

/-- The driver call that a descriptor type selects, with its arguments (R259). -/
def descriptorCall (r : Req) : Option (Cap × List Half) :=
  if valueHigh r = 1 then some (.deviceDescriptor, [])
  else if valueHigh r = 2 then some (.configurationDescriptor, [(valueLow r).setWidth 16])
  else if valueHigh r = 3 then some (.stringDescriptor, [(valueLow r).setWidth 16, r.wIndex])
  else if valueHigh r = 15 then some (.bosDescriptor, [])
  else none

/-- The descriptor's self-reported length (R96, R260). -/
def descriptorLength (s : State) (ty : Byte) (a : Addr) : Half :=
  if ty = 1 ∨ ty = 3 then (s.cpu.read a.toNat).setWidth 16
  else le16 (s.cpu.read (a + 2).toNat) (s.cpu.read (a + 3).toNat)

/-- The bytes that hold that length are mapped (R61). -/
def descriptorMapped (s : State) (ty : Byte) (a : Addr) : Bool :=
  if ty = 1 ∨ ty = 3 then s.cfg.mapped a else s.cfg.mapped (a + 2) && s.cfg.mapped (a + 3)

/-- A command of the port that only a writer may call: every one but `core_init` (R102, R341). -/
def isCommand : Instr → Bool
  | .prepareDataIn _ _ | .prepareDataOut _ _ _ | .prepareStatusIn | .stallEp0 _ => true
  | .pmaRead _ _ _ | .pmaWrite _ _ _ => true
  | .registerEndpoint _ _ _ _ _ _ _ | .registerEndpointTx _ _ _ _ | .registerEndpointRx _ _ _ _ _ => true
  | .registerEndpointDoubleTx _ _ _ _ _ | .registerEndpointDoubleRx _ _ _ _ _ _ | .unregisterEndpoint _ => true
  | .epConfigure _ _ _ _ _ | .epConfigureTx _ _ _ | .epConfigureRx _ _ _ _ => true
  | .epConfigureDoubleTx _ _ _ _ | .epConfigureDoubleRx _ _ _ _ _ | .epClearConfiguration _ => true
  | .epSetStall _ _ | .epClearStall _ _ | .epGetStall _ _ | .epSetStatus _ _ _ => true
  | .epSetKind _ | .epClearKind _ | .epClearTransferComplete _ _ => true
  | _ => false

/-- The point and the setup packet of a request instruction (R251). -/
def requestOf : Instr → Option (Option Point × SetupPacket)
  | .getStatus r => some (some .getStatus, r.packet 0 0)
  | .clearFeature r => some (some .clearFeature, r.packet 0 1)
  | .setFeature r => some (some .setFeature, r.packet 0 3)
  | .setAddress r => some (some .setAddress, r.packet 0 5)
  | .getDescriptor r => some (some .getDescriptor, r.packet 0 6)
  | .setDescriptor r => some (some .setDescriptor, r.packet 0 7)
  | .getConfiguration r => some (some .getConfiguration, r.packet 0 8)
  | .setConfiguration r => some (some .setConfiguration, r.packet 0 9)
  | .getInterface r => some (some .getInterface, r.packet 0 10)
  | .setInterface r => some (some .setInterface, r.packet 0 11)
  | .synchFrame r => some (some .synchFrame, r.packet 0 12)
  | .stdUndefined b r => some (none, r.packet 0 b)
  | .classRequest b r => some (some .classPoint, r.packet 1 b)
  | .vendorRequest b r => some (some .vendorPoint, r.packet 2 b)
  | .reservedType b r => some (none, r.packet 3 b)
  | _ => none

/-! ## Invariants -/

/-- Both memories are in canonical form, `ISTR` stores only its flags (R40), `BTABLE` bits 2:0 are 0 (R44). -/
def Inv (s : State) : Prop :=
  s.pma.wf = true ∧ s.cpu.wf = true ∧ s.istr &&& ~~~ istrFlagMask = 0 ∧ s.btable &&& 0x0007 = 0

/-! ## Runs (R387) -/

/-- A line that is a step of the foreground: a call, a mask or unmask, an access of its own (R106, R341). -/
def Item.isForeground : Item → Bool
  | .call _ | .mask | .unmask | .busWrite _ _ | .busRead _ | .read _ | .store _ _ => true
  | .host _ | .event _ | .isr | .drv _ | .interleave _ => false

/-- The foreground's steps among the lines still to run. -/
def foregroundLeft (s : State) : List Item := s.trace.filter Item.isForeground

/-- The host's step that an instruction is (R103). -/
def Token.ofInstr : Instr → Option Token
  | .hostSetup a e d => some (.setup a e d)
  | .hostOut a e d => some (.out a e d)
  | .hostIn a e => some (.inn a e)
  | .hostSof f => some (.sof f)
  | .hostBusReset => some .busReset
  | .hostSuspend => some .suspend
  | .hostResume => some .resume
  | _ => none

/-- The host's steps in an encoded input. -/
def Enc.hostSteps (e : Enc) : List Token :=
  match decode e with
  | .ok i => (Token.ofInstr i).toList
  | .error _ => []

/-- The host's steps in a line (R70, R106). -/
def Item.hostSteps : Item → List Token
  | .host bs => Enc.hostSteps (.token bs)
  | .event e => Enc.hostSteps (.event e)
  | .interleave w => w.flatten
  | _ => []

/-- The host's steps still to come: those of the windows and those of the lines. -/
def hostLeft (s : State) : List Token := s.window.flatten ++ s.trace.flatMap Item.hostSteps

/-- What a claim assumes of the host (R305): in this state the host must still take this step. -/
abbrev HostDuty := State → Token → Prop

/-- The duty of a host that takes every step that stands in the windows and in the lines. -/
def HostDuty.listed : HostDuty := fun s t => t ∈ hostLeft s

/-- A state that a claim may start a run in (R387). -/
def Launch (s : State) : Prop := s.fatal = none ∧ s.inIsr = false ∧ s.irqMasked = false

/-- The power-on state of R360 and R361, for any parameters, contents of the memories and inputs, in which the foreground's
first step is `core_init` (R362, R387). -/
def PowerOn (s : State) : Prop :=
  s = { State.reset with
    cfg := s.cfg, pma := s.pma, cpu := s.cpu, trace := s.trace, answers := s.answers, draws := s.draws }
  ∧ ∃ bs d q, foregroundLeft s = .call bs :: q ∧ decode (.call8 bs) = .ok (.coreInit d)

/-- A state that a run may end in, under a claim's host duty (R387 (a) to (e)): no fatal, no invocation running or due, nothing
masked, no step of the foreground left, and none that the host is obliged to take. -/
def Ended (duty : HostDuty) (s : State) : Prop :=
  s.fatal = none ∧ s.inIsr = false ∧ s.irqMasked = false ∧ irqLine s = false ∧ foregroundLeft s = [] ∧ ∀ t, ¬ duty s t

/-- The state after `n` steps, if each answers a next state. -/
def stepsFrom (s : State) : Nat → Option State
  | 0 => some s
  | n + 1 => match step s with
    | .next t => stepsFrom t n
    | _ => none

/-- The run from `s` ends in `t` after `n` steps, the first state that it may end in (R387). -/
def RunEnds (duty : HostDuty) (s : State) (n : Nat) (t : State) : Prop :=
  stepsFrom s n = some t ∧ Ended duty t ∧ ∀ k u, k < n → stepsFrom s k = some u → ¬ Ended duty u

end Sys2Proof.Machine
end

