-- ==== Sys2Proof/Certificates/Slice0/Obligations.lean ====
section
/-! DEFINITION. The statements for the provers, file by file of the spec.  An instruction's result is the whole next state,
so that what it leaves unchanged is said with it.  `Quiet` says that no SIE step falls inside the operation (R70), the case
`r = snap` of R154; what such steps may do inside an operation is `RmwWindow`, `InvKept`, `DaddrWriters`, `DevStateArcs` and
`ConfigurationConstant`, which hold for every interleaving. -/

open Sys2Proof Sys2Proof.Machine

/-! ## Encodings (spec/30_encoding.md) -/

/-- R91 to R103: the decoder gives every well-formed instruction back from its encoding, with every operand.  The byte
layout of CALL8 and TOKEN records is the model's (log 3). -/
def Obligations.DecodeEncode : Prop :=
  ∀ i : Instr, WellFormed i → decode (encode i) = .ok i

/-- R91, R99 to R103: what decodes is well formed; and but for the event snapshots, whose other bits are free (R100), an input
that decodes is the encoding of what it decodes to.  For CALL8 and TOKEN records this rests on the byte layout of log 3, which
is the model's: R102 and R103 give the ids, the PIDs and the operands alone. -/
def Obligations.DecodeSound : Prop :=
  ∀ (e : Enc) (i : Instr), decode e = .ok i → WellFormed i ∧ ((∀ w, e ≠ .istr16 w) → encode i = e)

/-- R91: a setup packet is exactly eight bytes, its multi-byte fields little-endian; the same fields by their places in the
64-bit little-endian word. -/
def Obligations.ParseSetup : Prop :=
  (∀ b0 b1 b2 b3 b4 b5 b6 b7 : Byte,
    let w : BitVec 64 := b7 ++ b6 ++ b5 ++ b4 ++ b3 ++ b2 ++ b1 ++ b0
    parseSetup [b0, b1, b2, b3, b4, b5, b6, b7] = some
      { bmRequestType := b0, bRequest := b1
        wValue := b2.setWidth 16 ||| b3.setWidth 16 <<< 8
        wIndex := b4.setWidth 16 ||| b5.setWidth 16 <<< 8
        wLength := b6.setWidth 16 ||| b7.setWidth 16 <<< 8 }
    ∧ parseSetup [b0, b1, b2, b3, b4, b5, b6, b7] = some
      { bmRequestType := w.extractLsb' 0 8, bRequest := w.extractLsb' 8 8, wValue := w.extractLsb' 16 16
        wIndex := w.extractLsb' 32 16, wLength := w.extractLsb' 48 16 })
  ∧ ∀ bs : List Byte, bs.length ≠ 8 → parseSetup bs = none

/-- R99: the rows of the setup-packet decode, by match and mask of `key`, the first match winning. -/
def Obligations.SetupRows : Prop :=
  ∀ p : SetupPacket,
    (p.key &&& 0xFF60 = 0x0000 → decodeSetup p = .getStatus p.req)
    ∧ (p.key &&& 0xFF60 = 0x0100 → decodeSetup p = .clearFeature p.req)
    ∧ (p.key &&& 0xFF60 = 0x0300 → decodeSetup p = .setFeature p.req)
    ∧ (p.key &&& 0xFF60 = 0x0500 → decodeSetup p = .setAddress p.req)
    ∧ (p.key &&& 0xFF60 = 0x0600 → decodeSetup p = .getDescriptor p.req)
    ∧ (p.key &&& 0xFF60 = 0x0700 → decodeSetup p = .setDescriptor p.req)
    ∧ (p.key &&& 0xFF60 = 0x0800 → decodeSetup p = .getConfiguration p.req)
    ∧ (p.key &&& 0xFF60 = 0x0900 → decodeSetup p = .setConfiguration p.req)
    ∧ (p.key &&& 0xFF60 = 0x0A00 → decodeSetup p = .getInterface p.req)
    ∧ (p.key &&& 0xFF60 = 0x0B00 → decodeSetup p = .setInterface p.req)
    ∧ (p.key &&& 0xFF60 = 0x0C00 → decodeSetup p = .synchFrame p.req)
    ∧ (p.key &&& 0x0060 = 0x0000 → p.bRequest ∉ definedStdCodes → decodeSetup p = .stdUndefined p.bRequest p.req)
    ∧ (p.key &&& 0x0060 = 0x0020 → decodeSetup p = .classRequest p.bRequest p.req)
    ∧ (p.key &&& 0x0060 = 0x0040 → decodeSetup p = .vendorRequest p.bRequest p.req)
    ∧ (p.key &&& 0x0060 = 0x0060 → decodeSetup p = .reservedType p.bRequest p.req)

/-- R100, R330: the rows of the event decode, by match and mask of the snapshot, in their order; and nothing else is an
event. -/
def Obligations.IstrRows : Prop :=
  ∀ w : Half,
    (w &&& 0x801F = 0x8010 → decodeIstr w = some .ctrEp0Out)
    ∧ (w &&& 0x801F = 0x8000 → decodeIstr w = some .ctrEp0In)
    ∧ (w &&& 0x8010 = 0x8010 → w &&& 0x000F ≠ 0 → decodeIstr w = some (.ctrEpnOut (w.extractLsb' 0 4)))
    ∧ (w &&& 0x8010 = 0x8000 → w &&& 0x000F ≠ 0 → decodeIstr w = some (.ctrEpnIn (w.extractLsb' 0 4)))
    ∧ (w &&& 0x8400 = 0x0400 → decodeIstr w = some .evReset)
    ∧ (w &&& 0x9400 = 0x1000 → decodeIstr w = some .evWkup)
    ∧ (w &&& 0x9C00 = 0x0800 → decodeIstr w = some .evSusp)
    ∧ (w &&& 0x9E00 = 0x0200 → decodeIstr w = some .evSof)
    ∧ (w &&& 0x9E00 = 0 → decodeIstr w = none)

/-- R101, R22: the stage register selects the stage function; a step that finds it at 5 to 7 faults. -/
def Obligations.StageRows : Prop :=
  decodeStage 0 = some .stageSetup ∧ decodeStage 1 = some .stageDataIn ∧ decodeStage 2 = some .stageDataOut
  ∧ decodeStage 3 = some .stageStatusIn ∧ decodeStage 4 = some .stageStatusOut
  ∧ ∀ s : State, s.fatal = none → s.inDispatch = false → s.stageDue = true → 4 < s.ctx.stage.toNat →
      decodeStage s.ctx.stage = none ∧ step s = .fault .badStage

/-- R91, R99 to R103: some words written out from the spec's encodings (a sanity statement); the argument bytes as log 3 lays
them out. -/
def Obligations.DecodedWords : Prop :=
  decode (.setup8 [0x80, 0x06, 0x00, 0x01, 0x00, 0x00, 0x40, 0x00])
      = .ok (.getDescriptor { dir := true, recip := 0, wValue := 0x0100, wIndex := 0, wLength := 64 })
  ∧ decode (.istr16 0x8011) = .ok (.ctrEpnOut 1)
  ∧ decode (.stage3 0b011) = .ok .stageStatusIn
  ∧ decode (.call8 [0x19, 0x02, 0x01, 0x03]) = .ok (.epSetStatus 2 .dirIn .valid)
  ∧ decode (.token [0xE1, 0x05, 0x01, 0xAA]) = .ok (.hostOut 5 1 [0xAA])

/-- R102, R325: the unassigned command ids are no instruction, and a step that fetches one is refused. -/
def Obligations.UnassignedCalls : Prop :=
  ∀ (id : Byte) (as : List Byte),
    (id = 0 ∨ (0x0D ≤ id.toNat ∧ id.toNat ≤ 0x0F) ∨ (0x1D ≤ id.toNat ∧ id.toNat ≤ 0x1F) ∨ 0x21 ≤ id.toNat) →
    decode (.call8 (id :: as)) = .error (.unassignedCall id)
    ∧ ∀ (s : State) (q : List Item), s.fatal = none → s.inDispatch = false → s.stageDue = false → s.inIsr = false →
        s.trace = .call (id :: as) :: q → step s = .refused (.unassignedCall id)

/-! ## A step (spec/20_memory.md, spec/60_exceptions.md) -/

/-- R70, R90, R106, R210, R253, R330: a step is `exec` of the instruction that its input decodes to.  The input is the latched
packet in a dispatch, else the stage register when the endpoint-0 callback is due, else the snapshot in an invocation, else
the next line, which is taken off the trace.  That a stage, its dispatch and an event are separate steps, in this order, is
the model's choice (logs 2, 10). -/
def Obligations.StepRunsDecoded : Prop :=
  ∀ (s : State) (i : Instr), WellFormed i → s.fatal = none →
    (∀ p, s.inDispatch = true → s.setup = some p → decode (.setup8 p.bytes) = .ok i → step s = exec i s)
    ∧ (s.inDispatch = false → s.stageDue = true → decode (.stage3 s.ctx.stage) = .ok i → step s = exec i s)
    ∧ (s.inDispatch = false → s.stageDue = false → s.inIsr = true → decode (.istr16 s.isrPending) = .ok i →
        step s = exec i s)
    ∧ (∀ bs q, s.inDispatch = false → s.stageDue = false → s.inIsr = false → s.trace = .call bs :: q →
        decode (.call8 bs) = .ok i → step s = exec i { s with trace := q })
    ∧ (∀ bs q, s.inDispatch = false → s.stageDue = false → s.inIsr = false → s.trace = .host bs :: q →
        decode (.token bs) = .ok i → step s = exec i { s with trace := q })
    ∧ (∀ e q, s.inDispatch = false → s.stageDue = false → s.inIsr = false → s.trace = .event e :: q →
        decode (.event e) = .ok i → step s = exec i { s with trace := q })

/-- R323: after a fatal assertion the ISR and the foreground take no step; the state is terminal, with the outcome `Halted(c)`.
That the SIE stops too, so that a `HOST` line halts like any other, which R323 only allows, and that the outcome has the form of
the fault `halted`, is the model's choice (log 15). -/
def Obligations.StepHalted : Prop :=
  ∀ (s : State) (c : FatalCause), s.fatal = some c → step s = .fault (.halted c)

/-- R327: the interrupt line is high exactly where `ISTR.CTR` (a completion pending on some endpoint, R41) or another flag is set
together with its enable in `CNTR`, flag and enable at the same bit.  R41: what a read of `ISTR` gives: the flags, `CTR`, and
while a completion is pending the number and direction of an endpoint that has one.  R328, R329: an invocation starts exactly
where the entry condition holds, with one read of `ISTR` as its snapshot.  That the end of the trace starts a due invocation,
and that an `ISR` line is refused where none is due, is the model's choice (logs 2, 17). -/
def Obligations.IsrEntry : Prop :=
  ∀ s : State,
    let pending := fun n : Fin 8 => s.epr[n].getLsbD 15 = true ∨ s.epr[n].getLsbD 7 = true
    (irqLine s = true ↔ ((∃ n, pending n) ∧ s.cntr.getLsbD 15 = true)
      ∨ ∃ b, 7 ≤ b ∧ b ≤ 14 ∧ s.istr.getLsbD b = true ∧ s.cntr.getLsbD b = true)
    ∧ ((istrRead s).getLsbD 15 = true ↔ ∃ n, pending n)
    ∧ (∀ b, 7 ≤ b → b ≤ 14 → (istrRead s).getLsbD b = s.istr.getLsbD b)
    ∧ (istrRead s).extractLsb' 5 2 = 0
    ∧ ((∃ n, pending n) → ∃ n : Fin 8, pending n ∧ ((istrRead s).extractLsb' 0 4).toNat = n.val
        ∧ (istrRead s).getLsbD 4 = s.epr[n].getLsbD 15)
    ∧ (s.fatal = none → s.inDispatch = false → s.stageDue = false → s.inIsr = false → Quiet s →
    (irqLine s = true → s.irqMasked = false →
      (s.trace = [] →
        step s = .next { s with inIsr := true, isrPending := istrRead s, isrHandled := 0, draws := s.draws + 1 })
      ∧ ∀ q, s.trace = .isr :: q →
        step s = .next { s with inIsr := true, isrPending := istrRead s, isrHandled := 0, draws := s.draws + 1,
                                trace := q })
    ∧ ((irqLine s = false ∨ s.irqMasked = true) →
      (s.trace = [] → step s = .next s) ∧ ∀ q, s.trace = .isr :: q → step s = .refused .isrNotDue))

/-- R330, R338, R40: an invocation with no condition left to test ends with one write-back, which clears exactly the serviced
flags, and `in_isr` cleared. -/
def Obligations.IsrReturn : Prop :=
  ∀ s : State, s.fatal = none → s.inDispatch = false → s.stageDue = false → s.inIsr = true → Quiet s →
    s.isrPending &&& 0x9E00 = 0 →
    step s = .next { s with istr := s.istr &&& ~~~ s.isrHandled &&& 0x7F80, inIsr := false }

/-! ## Reset and invariants (spec/10_state.md, spec/70_reset_and_hazards.md) -/

/-- R360, R361: the values that the spec gives at power-on.  That no fatal cause is held then is the model's choice (log 29). -/
def Obligations.ResetValues : Prop :=
  (∀ n : Fin 8, State.reset.epr[n] = 0x0000) ∧ State.reset.cntr = 0x0003 ∧ State.reset.istr = 0x0000
  ∧ State.reset.daddr = 0x00 ∧ State.reset.btable = 0x0000 ∧ State.reset.fatal = none ∧ State.reset.inIsr = false
  ∧ State.reset.irqMasked = false ∧ State.reset.setup = none ∧ irqLine State.reset = false

/-- The invariant holds at reset. -/
def Obligations.ResetInv : Prop := Inv State.reset

/-- R40, R44, R60, R61: both memories stay in canonical form, `ISTR` keeps its computed and reserved bits clear, and
`BTABLE` bits 2:0 stay 0, across every step of every agent. -/
def Obligations.InvKept : Prop :=
  ∀ s t : State, Inv s → step s = .next t → Inv t

/-- R43, R297, R368: only the bus-reset handler and the Status-In stage write `DADDR`; during any other instruction it changes
only if an SIE bus reset zeroes it: the instruction itself, or one of the SIE steps that fall inside it. -/
def Obligations.DaddrWriters : Prop :=
  ∀ (i : Instr) (s t : State), i ≠ .evReset → i ≠ .stageStatusIn → exec i s = .next t →
    t.daddr = s.daddr ∨ (t.daddr = 0 ∧ (i = .hostBusReset ∨ ∃ ts ∈ s.window, Token.busReset ∈ ts))

/-- R26, R362: the only changes of the device state, whatever else happens inside the instruction. -/
def Obligations.DevStateArcs : Prop :=
  ∀ (i : Instr) (s t : State), exec i s = .next t →
    t.dev.state = s.dev.state
    ∨ (i = .stageStatusIn ∧ s.dev.state = .default ∧ t.dev.state = .addressed)
    ∨ (i = .stageStatusIn ∧ s.dev.state = .addressed ∧ t.dev.state = .default)
    ∨ (∃ r, i = .setConfiguration r ∧ s.cfg.legalPoint s.dev.state .setConfiguration = true
        ∧ t.dev.state = if valueLow r ≠ 0 then .configured else .addressed)
    ∨ (i = .evSusp ∧ t.dev.state = .suspended ∧ t.dev.previous = s.dev.state)
    ∨ (i = .evWkup ∧ s.dev.state = .suspended ∧ t.dev.state = s.dev.previous)
    ∨ (i = .evReset ∧ t.dev.state = .default ∧ t.dev.previous = .default)
    ∨ (∃ d, i = .coreInit d ∧ t.dev.state = .default ∧ t.dev.previous = .default)

/-- R33: no step changes the parameters, and no step but a call of `core_init` the driver and its hooks.  R42, R44, R363: no other
instruction changes `CNTR` or `BTABLE`.  That a later call of `core_init` runs, and so may change the driver, is the model's
choice (log 23). -/
def Obligations.ConfigurationConstant : Prop :=
  (∀ s t : State, step s = .next t → t.cfg = s.cfg
    ∧ ((∀ bs q d, s.trace = .call bs :: q → decode (.call8 bs) ≠ .ok (.coreInit d)) → t.driver = s.driver))
  ∧ ∀ (i : Instr) (s t : State), (∀ d, i ≠ .coreInit d) → exec i s = .next t →
      t.driver = s.driver ∧ t.cntr = s.cntr ∧ t.btable = s.btable

/-! ## Endpoint registers (spec/41_ep_register.md) -/

/-- R150: the four bit categories of an endpoint register under a write, bit by bit: plain bits take the written value, a
written 1 flips a toggle bit, a written 0 clears a write-clear bit and a written 1 preserves it, `SETUP` is read-only. -/
def Obligations.WriteRule : Prop :=
  ∀ (s : State) (n : Fin 8) (w : Half),
    (Quiet s → regWrite (.epr n) w s = .ok ((), s.writeReg (.epr n) w))
    ∧ s.writeReg (.epr n) w = s.setEpr n (s.writeReg (.epr n) w).epr[n]
    ∧ ∀ b, b < 16 → (s.writeReg (.epr n) w).epr[n].getLsbD b =
        if (0x070F : Half).getLsbD b then w.getLsbD b
        else if (0x7070 : Half).getLsbD b then (if w.getLsbD b then !s.epr[n].getLsbD b else s.epr[n].getLsbD b)
        else if (0x8080 : Half).getLsbD b then (if w.getLsbD b then s.epr[n].getLsbD b else false)
        else s.epr[n].getLsbD b

/-- R154: what the three-term formula leaves, bit by bit, when the register holds `r` at the write; with `r` the snapshot a
touched toggle field ends at its desired value. -/
def Obligations.FormulaEffect : Prop :=
  ∀ (r snap f d v c : Half), f &&& ~~~ 0x7070 = 0 → c &&& ~~~ 0x8080 = 0 → ∀ b, b < 16 →
    let new := (eprWrite r (rmwWord snap f d v c)).getLsbD b
    ((0x070F : Half).getLsbD b = true → new = v.getLsbD b)
    ∧ ((0x7070 : Half).getLsbD b = true → f.getLsbD b = false → new = r.getLsbD b)
    ∧ (f.getLsbD b = true → new = (r.getLsbD b ^^ snap.getLsbD b ^^ d.getLsbD b))
    ∧ (f.getLsbD b = true → r = snap → new = d.getLsbD b)
    ∧ (c.getLsbD b = true → new = false)
    ∧ ((0x8080 : Half).getLsbD b = true → c.getLsbD b = false → new = r.getLsbD b)
    ∧ (b = 11 → new = r.getLsbD b)

/-- R151, R154: a read-modify-write reads once and writes at most once; its write acts on the register as the SIE steps in
between have left it, with a word computed from the snapshot alone.  Where the SIE steps stand (`window`) is the
model's (log 8). -/
def Obligations.RmwWindow : Prop :=
  ∀ (s t u : State) (n : Fin 8) (word : Half → Option Half) (before between : List Token) (rest : List (List Token)),
    s.window = before :: between :: rest →
    sieSteps before { s with window := between :: rest } = .ok ((), t) →
    sieSteps between { t with window := rest } = .ok ((), u) →
    eprRmw n word s = .ok (t.epr[n],
      match word t.epr[n] with
      | none => t
      | some w => u.setEpr n (eprWrite u.epr[n] w))

/-- R155, R156, R158 to R160, R165: the word that each of these operations writes, computed from its one snapshot, as their
pseudocode gives it, whatever SIE steps fall between; an endpoint above 7 is `Fault(BAD_EP)`. -/
def Obligations.WrittenWords : Prop :=
  ∀ (s : State) (n : Byte) (d : Dir) (st : Stat), Writer s →
    let at_ := fun v : Stat => (v.code.setWidth 16 : Half) <<< (if d = .dirIn then 4 else 12)
    let f : Half := if d = .dirIn then 0x0030 else 0x3000
    let c : Half := if d = .dirIn then 0x0080 else 0x8000
    let rmw := fun (e : Fin 8) (word : Half → Option Half) => outcome (do let _ ← eprRmw e word; pure ()) s
    (∀ hn : n.toNat < 8,
      let e := epOf n hn
      exec (.epSetStatus n d st) s = rmw e (fun snap => some (((snap ^^^ at_ st) &&& (0x070F ||| f)) ||| 0x8080))
      ∧ exec (.epSetStall n d) s = rmw e (fun snap => if statOf d snap = .disabled then none
          else some (((snap ^^^ at_ .stall) &&& (0x070F ||| f)) ||| 0x8080))
      ∧ exec (.epGetStall n d) s = outcome (do
          let snap ← regRead (.epr e)
          upd fun t => { t with ret := if statOf d snap = .stall then 1 else 0 }) s
      ∧ exec (.epSetKind n) s = rmw e (fun snap => some (((snap ||| 0x0100) &&& 0x070F) ||| 0x8080))
      ∧ exec (.epClearKind n) s = rmw e (fun snap => some (((snap &&& ~~~ 0x0100) &&& 0x070F) ||| 0x8080))
      ∧ exec (.epClearTransferComplete n d) s = outcome (do
          let snap ← eprRmw e fun snap => some ((snap &&& 0x070F) ||| (0x8080 &&& ~~~ c))
          upd fun t => { t with ret := snap }) s)
    ∧ (8 ≤ n.toNat →
      exec (.epSetStatus n d st) s = .fault .badEp ∧ exec (.epSetStall n d) s = .fault .badEp
      ∧ exec (.epGetStall n d) s = .fault .badEp ∧ exec (.epSetKind n) s = .fault .badEp
      ∧ exec (.epClearKind n) s = .fault .badEp ∧ exec (.epClearTransferComplete n d) s = .fault .badEp)

/-- R155, R168: `ep_set_status` sets its field and changes nothing else. -/
def Obligations.SetStatusResult : Prop :=
  ∀ (s : State) (n : Byte) (hn : n.toNat < 8) (d : Dir) (st : Stat), Quiet s → Writer s →
    exec (.epSetStatus n d st) s
        = .next (s.setEpr (epOf n hn) (putBits s.epr[epOf n hn] (statMask d) (statAt d st)))
    ∧ statOf d (putBits s.epr[epOf n hn] (statMask d) (statAt d st)) = st

/-- R156 to R158: `ep_set_stall` stalls a direction unless it is disabled; `ep_clear_stall` acts only on a stalled one, leaves
NAK (IN) or VALID (OUT), and resets the toggle; `ep_get_stall` answers and writes no register. -/
def Obligations.StallResults : Prop :=
  ∀ (s : State) (n : Byte) (hn : n.toNat < 8) (d : Dir), Quiet s → Writer s →
    (statOf d s.epr[epOf n hn] = .disabled → exec (.epSetStall n d) s = .next s)
    ∧ (statOf d s.epr[epOf n hn] ≠ .disabled →
        exec (.epSetStall n d) s
          = .next (s.setEpr (epOf n hn) (putBits s.epr[epOf n hn] (statMask d) (statAt d .stall))))
    ∧ (statOf d s.epr[epOf n hn] ≠ .stall → exec (.epClearStall n d) s = .next s)
    ∧ (statOf d s.epr[epOf n hn] = .stall →
        exec (.epClearStall n d) s
          = .next (s.setEpr (epOf n hn) (putBits s.epr[epOf n hn] (statMask d ||| dtogMask d)
              (statAt d (if d = .dirIn then .nak else .valid)))))
    ∧ exec (.epGetStall n d) s = .next { s with ret := if statOf d s.epr[epOf n hn] = .stall then 1 else 0 }

/-- R159, R160: `ep_set_kind` and `ep_clear_kind` change `EP_KIND` alone. -/
def Obligations.KindResults : Prop :=
  ∀ (s : State) (n : Byte) (hn : n.toNat < 8), Quiet s → Writer s →
    exec (.epSetKind n) s = .next (s.setEpr (epOf n hn) (s.epr[epOf n hn] ||| 0x0100))
    ∧ exec (.epClearKind n) s = .next (s.setEpr (epOf n hn) (s.epr[epOf n hn] &&& 0xFEFF))

/-- R161, R165: `ep_clear_configuration` leaves only the read-only `SETUP` bit; `ep_clear_transfer_complete` clears one flag and
returns the snapshot. -/
def Obligations.ClearResults : Prop :=
  ∀ (s : State) (n : Byte) (hn : n.toNat < 8) (d : Dir), Quiet s → Writer s →
    exec (.epClearConfiguration n) s = .next (s.setEpr (epOf n hn) (s.epr[epOf n hn] &&& 0x0800))
    ∧ exec (.epClearTransferComplete n d) s
        = .next { s.setEpr (epOf n hn) (s.epr[epOf n hn] &&& (if d = .dirIn then 0xFF7F else 0x7FFF)) with
                  ret := s.epr[epOf n hn] }

/-- R162, R166, R167: the single-buffered configurations write their descriptor words and then the register: type, kind 0,
`EA = n`, both statuses, both toggles 0, the pending flags and `SETUP` kept. -/
def Obligations.ConfigureSingle : Prop :=
  ∀ (s : State) (n : Byte) (hn : n.toNat < 8) (ty : EpType) (x r c : Half), Quiet s → Writer s →
    let e := epOf n hn
    let both := bdWords s.cfg e [(.addrTx, x), (.countTx, 0), (.addrRx, r), (.countRx, encodeRx c)]
    let tx := bdWords s.cfg e [(.addrTx, x), (.countTx, 0)]
    let rx := bdWords s.cfg e [(.addrRx, r), (.countRx, encodeRx c)]
    (wordsFree s both = true → exec (.epConfigure n ty x r c) s
        = .next ((s.putWords both).setEpr e (configured s.epr[e] ty false e .valid .nak)))
    ∧ (wordsFree s tx = true → exec (.epConfigureTx n ty x) s
        = .next ((s.putWords tx).setEpr e (configured s.epr[e] ty false e .disabled .nak)))
    ∧ (wordsFree s rx = true → exec (.epConfigureRx n ty r c) s
        = .next ((s.putWords rx).setEpr e (configured s.epr[e] ty false e .valid .disabled)))

/-- R163, R164, R196: the double-buffered configurations put buffer 0 in the TX pair and buffer 1 in the RX pair; `EP_KIND` is
1 on a bulk endpoint. -/
def Obligations.ConfigureDouble : Prop :=
  ∀ (s : State) (n : Byte) (hn : n.toNat < 8) (ty : EpType) (x y c : Half), Quiet s → Writer s →
    let e := epOf n hn
    let tx := bdWords s.cfg e [(.addrTx, x), (.countTx, 0), (.addrRx, y), (.countRx, 0)]
    let rx := bdWords s.cfg e [(.addrTx, x), (.countTx, encodeRx c), (.addrRx, y), (.countRx, encodeRx c)]
    (wordsFree s tx = true → exec (.epConfigureDoubleTx n ty x y) s
        = .next ((s.putWords tx).setEpr e (configured s.epr[e] ty (ty == .bulk) e .disabled .nak)))
    ∧ (wordsFree s rx = true → exec (.epConfigureDoubleRx n ty x y c) s
        = .next ((s.putWords rx).setEpr e (configured s.epr[e] ty (ty == .bulk) e .valid .disabled)))

/-- R157, R161 to R167, R324: the other endpoint-register operations on an endpoint above 7 are `Fault(BAD_EP)` too. -/
def Obligations.BadEpFaults : Prop :=
  ∀ (s : State) (n : Byte) (d : Dir) (ty : EpType) (x y c : Half), Writer s → 8 ≤ n.toNat →
    exec (.epConfigure n ty x y c) s = .fault .badEp ∧ exec (.epConfigureTx n ty x) s = .fault .badEp
    ∧ exec (.epConfigureRx n ty y c) s = .fault .badEp ∧ exec (.epConfigureDoubleTx n ty x y) s = .fault .badEp
    ∧ exec (.epConfigureDoubleRx n ty x y c) s = .fault .badEp ∧ exec (.epClearConfiguration n) s = .fault .badEp
    ∧ exec (.epClearStall n d) s = .fault .badEp

/-- R341: a command call of the foreground with the interrupt not masked is `Fault(FOREGROUND_WRITE)`, all but `core_init`; that
this fault comes before R228's is the model's choice (log 31).  R62, R341: a register write at a bus address needs the mask too
and ignores bits 31:16; a read needs none, its bits 31:16 are 0, and but for the free value that a read of `ISTR` draws it changes
nothing else.  That such a write reaches `CNTR`, `DADDR` and `BTABLE` is the model's choice (log 34).  R341, R24, R61, R67: the
foreground may read a word of the packet memory, a byte of CPU memory and the block's state too, with no mask; the setup latch
outside a dispatch, a word past the packet memory and an unmapped byte are the faults of those rules.  The lines that do so, and
the fields that hold what was read, are the model's (log 19). -/
def Obligations.ForegroundWriteFaults : Prop :=
  (∀ (s : State) (i : Instr), isCommand i = true → s.inIsr = false → s.irqMasked = false →
    exec i s = .fault .foregroundWrite)
  ∧ (∀ (s : State) (a v : Addr) (r : Reg) (q : List Item), s.fatal = none → s.inDispatch = false → s.stageDue = false →
      s.inIsr = false → regAtBus s.cfg a = some r →
      (s.trace = .busWrite a v :: q → s.irqMasked = false → step s = .fault .foregroundWrite)
      ∧ (s.trace = .busWrite a v :: q → s.irqMasked = true → Quiet s →
          step s = .next ({ s with trace := q }.writeReg r (v.extractLsb' 0 16)))
      ∧ (s.trace = .busRead a :: q → Quiet s →
          let w : Half := match r with
            | .epr n => s.epr[n]
            | .istr => istrRead s
            | .cntr => s.cntr
            | .daddr => s.daddr.setWidth 16
            | .btable => s.btable
          step s = .next { s with
            trace := q, busData := w.setWidth 32, draws := if r = .istr then s.draws + 1 else s.draws }))
  ∧ ∀ (s : State) (x : Shared) (q : List Item), s.fatal = none → s.inDispatch = false → s.stageDue = false →
      s.inIsr = false → Quiet s → s.trace = .read x :: q →
      let gives := fun v : SharedValue => step s = .next { s with trace := q, seen := some v }
      match x with
      | .pmaWord k => (2 * k + 2 ≤ s.cfg.pmaBytes → gives (.half (s.pma.word k)))
          ∧ (s.cfg.pmaBytes < 2 * k + 2 → step s = .fault .pmaBounds)
      | .cpuByte a => (s.cfg.mapped a = true → gives (.byte (s.cpu.read a.toNat)))
          ∧ (s.cfg.mapped a = false → step s = .fault .cpuBus)
      | .setup => step s = .fault .setupNotLatched
      | .ctxBuffer => gives (.addr s.ctx.buffer)
      | .ctxRemaining => gives (.addr s.ctx.remaining)
      | .ctxStage => gives (.stage s.ctx.stage)
      | .ctxCompletion => gives (.callback s.ctx.completion)
      | .devState => gives (.devState s.dev.state)
      | .devPrevious => gives (.devState s.dev.previous)
      | .addrPending => gives (.flag s.dev.addrPending)
      | .pendingAddr => gives (.devAddr s.dev.pendingAddr)
      | .eptMode n => gives (.mode s.ept[n].mode)
      | .eptType n => gives (.type s.ept[n].ty)
      | .eptTxAddr n => gives (.half s.ept[n].txAddr)
      | .eptRxAddr n => gives (.half s.ept[n].rxAddr)
      | .eptRxCount n => gives (.half s.ept[n].rxCount)
      | .eptCallback n d => gives (.callback (if d = .dirIn then s.ept[n].inCb else s.ept[n].outCb))
      | .fatal => gives (.cause none)
      | .inIsr => gives (.flag false)
      | .irqMasked => gives (.flag s.irqMasked)

/-- R72, R162 to R167, R384: configuring again, or registering again, an endpoint is `Fault(OWNERSHIP)` at the first count word
that it writes and the SIE owns: `COUNT_TX` of an owned IN direction, `COUNT_RX` of an owned OUT direction. -/
def Obligations.ReconfigureArmedFaults : Prop :=
  ∀ (s : State) (n : Byte) (hn : n.toNat < 8) (ty : EpType) (x y c : Half) (f g : CbId), Quiet s → Writer s →
    let e := epOf n hn
    let free := fun fs : List (BdField × Half) => wordsFree s (bdWords s.cfg e fs) = true
    let stops := fun i : Instr => exec i s = .fault .ownership
    let inOk := fun a : Half => a.toNat % 2 = 0 ∧ a.toNat + 2 ≤ s.cfg.pmaBytes
    let outOk := fun a : Half => a.toNat % 2 = 0 ∧ c.toNat ≤ 1024 ∧ a.toNat + rxSize (encodeRx c) ≤ s.cfg.pmaBytes
    let single := ty ≠ .isochronous ∧ (ty = .control ↔ n = 0)
    let oneway := (ty = .bulk ∨ ty = .interrupt) ∧ n ≠ 0
    let double := (ty = .bulk ∨ ty = .isochronous) ∧ n ≠ 0
    2 * bdIndex s.cfg e .countRx + 2 ≤ s.cfg.pmaBytes →
    (txOwned s.epr[e] = true → free [(.addrTx, x)] →
      stops (.epConfigure n ty x y c) ∧ stops (.epConfigureTx n ty x) ∧ stops (.epConfigureDoubleTx n ty x y)
      ∧ stops (.epConfigureDoubleRx n ty x y c)
      ∧ (single → inOk x → outOk y → stops (.registerEndpoint n ty x y c (some f) (some g)))
      ∧ (oneway → inOk x → stops (.registerEndpointTx n ty x (some f)))
      ∧ (double → inOk x → inOk y → stops (.registerEndpointDoubleTx n ty x y (some f)))
      ∧ (double → outOk x → outOk y → stops (.registerEndpointDoubleRx n ty x y c (some f))))
    ∧ (rxOwned s.epr[e] = true →
      (free [(.addrTx, x), (.countTx, 0), (.addrRx, y)] →
        stops (.epConfigure n ty x y c) ∧ stops (.epConfigureDoubleTx n ty x y)
        ∧ (single → inOk x → outOk y → stops (.registerEndpoint n ty x y c (some f) (some g)))
        ∧ (double → inOk x → inOk y → stops (.registerEndpointDoubleTx n ty x y (some f))))
      ∧ (free [(.addrTx, x), (.countTx, encodeRx c), (.addrRx, y)] →
        stops (.epConfigureDoubleRx n ty x y c)
        ∧ (double → outOk x → outOk y → stops (.registerEndpointDoubleRx n ty x y c (some f))))
      ∧ (free [(.addrRx, y)] →
        stops (.epConfigureRx n ty y c) ∧ (oneway → outOk y → stops (.registerEndpointRx n ty y c (some f)))))

/-! ## The byte packer (spec/40_pma_transfer.md, spec/20_memory.md) -/

/-- R140: `pma_write` copies `count` bytes and changes no byte beyond the words they lie in; an odd last word's high byte and
the count of draws are all else it touches. -/
def Obligations.PmaWriteBytes : Prop :=
  ∀ (s : State) (src : Addr) (o c : Half), Quiet s → Writer s → pmaWritable s src o c = true →
    ∃ t, exec (.pmaWrite src o c) s = .next t
      ∧ (∀ i, i < c.toNat → t.pma.read (o.toNat + i) = s.cpu.read (src + BitVec.ofNat 32 i).toNat)
      ∧ (∀ a, a < o.toNat ∨ o.toNat + 2 * ((c.toNat + 1) / 2) ≤ a → t.pma.read a = s.pma.read a)
      ∧ t = { s with pma := t.pma, draws := s.draws + c.toNat % 2 }

/-- R141: `pma_read` copies `count` bytes to CPU memory and changes nothing else. -/
def Obligations.PmaReadBytes : Prop :=
  ∀ (s : State) (o : Half) (dst : Addr) (c : Half), Quiet s → Writer s → pmaReadable s o dst c = true →
    ∃ t, exec (.pmaRead o dst c) s = .next t
      ∧ (∀ i, i < c.toNat → t.cpu.read (dst + BitVec.ofNat 32 i).toNat = s.pma.read (o.toNat + i))
      ∧ (∀ a, (∀ i, i < c.toNat → a ≠ (dst + BitVec.ofNat 32 i).toNat) → t.cpu.read a = s.cpu.read a)
      ∧ t = { s with cpu := t.cpu }

/-- R66, R67, R72, R61: where the packer stops: an odd offset, an access past the packet memory, a word the SIE owns, CPU
memory that is not mapped. -/
def Obligations.PmaStops : Prop :=
  ∀ (s : State) (a : Addr) (o c : Half), Quiet s → Writer s →
    (o.toNat % 2 = 1 → exec (.pmaWrite a o c) s = .fault .pmaMisaligned
      ∧ exec (.pmaRead o a c) s = .fault .pmaMisaligned)
    ∧ (o.toNat % 2 = 0 → c ≠ 0 → s.cfg.pmaBytes < o.toNat + c.toNat →
        exec (.pmaWrite a o c) s = .fault .pmaBounds ∧ exec (.pmaRead o a c) s = .fault .pmaBounds)
    ∧ (o.toNat % 2 = 0 → 2 ≤ c.toNat → o.toNat + c.toNat ≤ s.cfg.pmaBytes →
        (s.cfg.mapped a = true → s.cfg.mapped (a + 1) = true → sieOwns s (o.toNat / 2) = true →
          exec (.pmaWrite a o c) s = .fault .ownership)
        ∧ (s.cfg.mapped a = false →
          exec (.pmaWrite a o c) s = .fault .cpuBus ∧ exec (.pmaRead o a c) s = .fault .cpuBus))

/-- R142: `pma_write` and then `pma_read` bring the bytes back, whatever the drawn high byte of an odd tail. -/
def Obligations.PmaRoundTrip : Prop :=
  ∀ (s : State) (src dst : Addr) (o c : Half), Quiet s → Writer s → pmaWritable s src o c = true →
    s.cfg.pmaBytes % 2 = 0 → mappedFrom s.cfg dst c.toNat = true →
    ∃ t u, exec (.pmaWrite src o c) s = .next t ∧ exec (.pmaRead o dst c) t = .next u
      ∧ ∀ i, i < c.toNat → u.cpu.read (dst + BitVec.ofNat 32 i).toNat = s.cpu.read (src + BitVec.ofNat 32 i).toNat

/-! ## The endpoint table (spec/42_endpoint_table.md) -/

/-- R190 to R193: the single-buffered registrations, when their preconditions hold: the configuration, and then the entry. -/
def Obligations.RegisterSingle : Prop :=
  ∀ (s : State) (n : Byte) (hn : n.toNat < 8) (ty : EpType) (x r c : Half) (i o : CbId), Quiet s → Writer s →
    let e := epOf n hn
    let both := bdWords s.cfg e [(.addrTx, x), (.countTx, 0), (.addrRx, r), (.countRx, encodeRx c)]
    let tx := bdWords s.cfg e [(.addrTx, x), (.countTx, 0)]
    let rx := bdWords s.cfg e [(.addrRx, r), (.countRx, encodeRx c)]
    let inOk := x.toNat % 2 = 0 ∧ x.toNat + 2 ≤ s.cfg.pmaBytes
    let outOk := r.toNat % 2 = 0 ∧ c.toNat ≤ 1024 ∧ r.toNat + rxSize (encodeRx c) ≤ s.cfg.pmaBytes
    (ty ≠ .isochronous → (ty = .control ↔ n = 0) → inOk → outOk → wordsFree s both = true →
      exec (.registerEndpoint n ty x r c (some i) (some o)) s
        = .next (((s.putWords both).setEpr e (configured s.epr[e] ty false e .valid .nak)).setEpt e
            { mode := .single, ty := ty, txAddr := x, rxAddr := r, rxCount := c, inCb := some i, outCb := some o }))
    ∧ ((ty = .bulk ∨ ty = .interrupt) → n ≠ 0 → inOk → wordsFree s tx = true →
      exec (.registerEndpointTx n ty x (some i)) s
        = .next (((s.putWords tx).setEpr e (configured s.epr[e] ty false e .disabled .nak)).setEpt e
            { mode := .txOnly, ty := ty, txAddr := x, rxAddr := 0, rxCount := 0, inCb := some i, outCb := none }))
    ∧ ((ty = .bulk ∨ ty = .interrupt) → n ≠ 0 → outOk → wordsFree s rx = true →
      exec (.registerEndpointRx n ty r c (some o)) s
        = .next (((s.putWords rx).setEpr e (configured s.epr[e] ty false e .valid .disabled)).setEpt e
            { mode := .rxOnly, ty := ty, txAddr := 0, rxAddr := r, rxCount := c, inCb := none, outCb := some o }))

/-- R190, R194, R195: the double-buffered registrations. -/
def Obligations.RegisterDouble : Prop :=
  ∀ (s : State) (n : Byte) (hn : n.toNat < 8) (ty : EpType) (x y c : Half) (f : CbId), Quiet s → Writer s → n ≠ 0 →
    (ty = .bulk ∨ ty = .isochronous) → x.toNat % 2 = 0 → y.toNat % 2 = 0 →
    let e := epOf n hn
    let tx := bdWords s.cfg e [(.addrTx, x), (.countTx, 0), (.addrRx, y), (.countRx, 0)]
    let rx := bdWords s.cfg e [(.addrTx, x), (.countTx, encodeRx c), (.addrRx, y), (.countRx, encodeRx c)]
    (x.toNat + 2 ≤ s.cfg.pmaBytes → y.toNat + 2 ≤ s.cfg.pmaBytes → wordsFree s tx = true →
      exec (.registerEndpointDoubleTx n ty x y (some f)) s
        = .next (((s.putWords tx).setEpr e (configured s.epr[e] ty (ty == .bulk) e .disabled .nak)).setEpt e
            { mode := .doubleTx, ty := ty, txAddr := x, rxAddr := y, rxCount := 0, inCb := some f, outCb := none }))
    ∧ (c.toNat ≤ 1024 → x.toNat + rxSize (encodeRx c) ≤ s.cfg.pmaBytes →
        y.toNat + rxSize (encodeRx c) ≤ s.cfg.pmaBytes → wordsFree s rx = true →
      exec (.registerEndpointDoubleRx n ty x y c (some f)) s
        = .next (((s.putWords rx).setEpr e (configured s.epr[e] ty (ty == .bulk) e .valid .disabled)).setEpt e
            { mode := .doubleRx, ty := ty, txAddr := x, rxAddr := y, rxCount := c, inCb := none, outCb := some f }))

/-- R197: `unregister_endpoint` clears the register but for `SETUP`, and the entry; above 7 it is the fatal assertion
`EP_RANGE`. -/
def Obligations.UnregisterResult : Prop :=
  ∀ (s : State) (n : Byte), Writer s →
    (∀ hn : n.toNat < 8, Quiet s → exec (.unregisterEndpoint n) s
      = .next ((s.setEpr (epOf n hn) (s.epr[epOf n hn] &&& 0x0800)).setEpt (epOf n hn) EptEntry.unregistered))
    ∧ (8 ≤ n.toNat → exec (.unregisterEndpoint n) s = .next { s with fatal := some .epRange })

/-- R190, R322, R323: the registration checks in their order, each a fatal assertion that changes nothing but the latch: the
endpoint's range, the type, the offsets and windows, the callbacks. -/
def Obligations.RegistrationChecks : Prop :=
  ∀ (s : State) (n : Byte) (ty : EpType) (x y c : Half) (i o : Option CbId), Writer s →
    (8 ≤ n.toNat →
      exec (.registerEndpoint n ty x y c i o) s = .next { s with fatal := some .epRange }
      ∧ exec (.registerEndpointTx n ty x i) s = .next { s with fatal := some .epRange }
      ∧ exec (.registerEndpointRx n ty y c o) s = .next { s with fatal := some .epRange }
      ∧ exec (.registerEndpointDoubleTx n ty x y i) s = .next { s with fatal := some .epRange }
      ∧ exec (.registerEndpointDoubleRx n ty x y c o) s = .next { s with fatal := some .epRange })
    ∧ (n.toNat < 8 →
      ((ty = .isochronous ∨ (ty = .control ∧ n ≠ 0) ∨ (ty ≠ .control ∧ n = 0)) →
        exec (.registerEndpoint n ty x y c i o) s = .next { s with fatal := some .epType })
      ∧ ((ty = .control ∨ ty = .isochronous ∨ n = 0) →
        exec (.registerEndpointTx n ty x i) s = .next { s with fatal := some .epType }
        ∧ exec (.registerEndpointRx n ty y c o) s = .next { s with fatal := some .epType })
      ∧ ((ty = .control ∨ ty = .interrupt ∨ n = 0) →
        exec (.registerEndpointDoubleTx n ty x y i) s = .next { s with fatal := some .epType }
        ∧ exec (.registerEndpointDoubleRx n ty x y c o) s = .next { s with fatal := some .epType })
      ∧ (ty ≠ .isochronous → (ty = .control ↔ n = 0) →
        ((x.toNat % 2 = 1 ∨ s.cfg.pmaBytes < x.toNat + 2 ∨ y.toNat % 2 = 1 ∨ 1024 < c.toNat
            ∨ s.cfg.pmaBytes < y.toNat + rxSize (encodeRx c)) →
          exec (.registerEndpoint n ty x y c i o) s = .next { s with fatal := some .pmaRange })
        ∧ (x.toNat % 2 = 0 → x.toNat + 2 ≤ s.cfg.pmaBytes → y.toNat % 2 = 0 → c.toNat ≤ 1024 →
            y.toNat + rxSize (encodeRx c) ≤ s.cfg.pmaBytes → (i = none ∨ o = none) →
          exec (.registerEndpoint n ty x y c i o) s = .next { s with fatal := some .nullCallback }))
      ∧ ((ty = .bulk ∨ ty = .interrupt) → n ≠ 0 →
        ((x.toNat % 2 = 1 ∨ s.cfg.pmaBytes < x.toNat + 2) →
          exec (.registerEndpointTx n ty x i) s = .next { s with fatal := some .pmaRange })
        ∧ (x.toNat % 2 = 0 → x.toNat + 2 ≤ s.cfg.pmaBytes →
          exec (.registerEndpointTx n ty x none) s = .next { s with fatal := some .nullCallback })
        ∧ ((y.toNat % 2 = 1 ∨ 1024 < c.toNat ∨ s.cfg.pmaBytes < y.toNat + rxSize (encodeRx c)) →
          exec (.registerEndpointRx n ty y c o) s = .next { s with fatal := some .pmaRange })
        ∧ (y.toNat % 2 = 0 → c.toNat ≤ 1024 → y.toNat + rxSize (encodeRx c) ≤ s.cfg.pmaBytes →
          exec (.registerEndpointRx n ty y c none) s = .next { s with fatal := some .nullCallback }))
      ∧ ((ty = .bulk ∨ ty = .isochronous) → n ≠ 0 →
        ((x.toNat % 2 = 1 ∨ s.cfg.pmaBytes < x.toNat + 2 ∨ y.toNat % 2 = 1 ∨ s.cfg.pmaBytes < y.toNat + 2) →
          exec (.registerEndpointDoubleTx n ty x y i) s = .next { s with fatal := some .pmaRange })
        ∧ (x.toNat % 2 = 0 → x.toNat + 2 ≤ s.cfg.pmaBytes → y.toNat % 2 = 0 → y.toNat + 2 ≤ s.cfg.pmaBytes →
          exec (.registerEndpointDoubleTx n ty x y none) s = .next { s with fatal := some .nullCallback })
        ∧ ((x.toNat % 2 = 1 ∨ y.toNat % 2 = 1 ∨ 1024 < c.toNat ∨ s.cfg.pmaBytes < x.toNat + rxSize (encodeRx c)
            ∨ s.cfg.pmaBytes < y.toNat + rxSize (encodeRx c)) →
          exec (.registerEndpointDoubleRx n ty x y c o) s = .next { s with fatal := some .pmaRange })
        ∧ (x.toNat % 2 = 0 → y.toNat % 2 = 0 → c.toNat ≤ 1024 → x.toNat + rxSize (encodeRx c) ≤ s.cfg.pmaBytes →
            y.toNat + rxSize (encodeRx c) ≤ s.cfg.pmaBytes →
          exec (.registerEndpointDoubleRx n ty x y c none) s = .next { s with fatal := some .nullCallback })))

/-- R362, R363: `core_init` installs the driver, clears `ISTR`, the table, the context and the device state, writes `BTABLE`, and
leaves `CNTR = 0x9E00`; a null driver or a null required capability is fatal.  It is stated for every state: that a call runs with
the interrupt enabled and not masked, and that a second call runs too (R362 lets a model refuse it), is the model's choice
(log 23); what such a call does is R362's. -/
def Obligations.CoreInitResult : Prop :=
  ∀ s : State, Quiet s →
    (∀ f : DriverFlags, (∀ k, k < 16 → f.getLsbD k = true) →
      exec (.coreInit (some f)) s = .next { s with
        driver := f, cntr := 0x9E00, istr := 0, btable := s.cfg.btableOff &&& 0xFFF8
        ept := Vector.replicate 8 EptEntry.unregistered
        ctx := { buffer := 0, remaining := 0, stage := 0, completion := none }
        dev := { state := .default, previous := .default, addrPending := false, pendingAddr := 0 } })
    ∧ (∀ (f : DriverFlags) (k : Nat), k < 16 → f.getLsbD k = false →
        exec (.coreInit (some f)) s = .next { s with fatal := some .nullDriverCb })
    ∧ exec (.coreInit none) s = .next { s with fatal := some .nullDriverCb }

/-! ## The control machine (spec/43_control_fsm.md) -/

/-- R214, R216, R217: `prepare_data_in_stage` clamps the count to `wLength`, sends the first chunk, sets the OUT status and arms
IN. -/
def Obligations.PrepareDataInResult : Prop :=
  ∀ (s : State) (p : SetupPacket) (buf count : Addr), Quiet s → Writer s → MayRespond s → s.setup = some p →
    let c : Addr := if count.toNat ≤ p.wLength.toNat then count else p.wLength.setWidth 32
    let n := min c.toNat s.cfg.mps0
    let out : Stat := if c.toNat < p.wLength.toNat then .nak
      else if s.cfg.mps0 < c.toNat then s.cfg.dataInRxMulti else .nak
    let u := (s.packed buf s.cfg.ep0TxOff (BitVec.ofNat 16 n)).putWords
      (bdWords s.cfg 0 [(.countTx, BitVec.ofNat 16 n)])
    pmaWritable s buf s.cfg.ep0TxOff (BitVec.ofNat 16 n) = true →
    wordsFree (s.packed buf s.cfg.ep0TxOff (BitVec.ofNat 16 n))
      (bdWords s.cfg 0 [(.countTx, BitVec.ofNat 16 n)]) = true →
    exec (.prepareDataIn buf count) s = .next ((({ u with
      responded := true
      ctx := { buffer := buf + BitVec.ofNat 32 n, remaining := c - BitVec.ofNat 32 n, stage := 1,
               completion := none } }).setStat0 .dirOut out).setStat0 .dirIn .valid)

/-- R219, R222, R223, R231: the other responses: Data-Out armed, Status-In entered, both directions stalled and the context
cleared. -/
def Obligations.ResponseResults : Prop :=
  ∀ (s : State) (buf count : Addr) (f : Option CbId) (cause : Byte), Quiet s → Writer s → MayRespond s →
    (count ≠ 0 → exec (.prepareDataOut buf count f) s = .next (({ s with
      responded := true
      ctx := { buffer := buf, remaining := count, stage := 2, completion := f } }).setStat0 .dirOut .valid))
    ∧ (StatusInFree s → exec (.prepareDataOut buf 0 f) s = .next ((({ s with
      responded := true
      ctx := { buffer := buf, remaining := 0, stage := 3, completion := f } }).putWords
        (bdWords s.cfg 0 [(.countTx, 0)])).setStat0 .dirIn .valid))
    ∧ (StatusInFree s → exec .prepareStatusIn s = .next ((({ s with
      responded := true
      ctx := { buffer := 0, remaining := 0, stage := 3, completion := none } }).putWords
        (bdWords s.cfg 0 [(.countTx, 0)])).setStat0 .dirIn .valid))
    ∧ exec (.stallEp0 cause) s = .next { (s.setEpr 0 (stalledDir (stalledDir s.epr[0] .dirIn) .dirOut)) with
        responded := true
        ctx := { buffer := 0, remaining := 0, stage := 0, completion := none }
        dev := { s.dev with addrPending := false }
        stalls := cause :: s.stalls }

/-- R228: a response outside a dispatch, or a second one in it, is `Fault(PREPARE_CONTEXT)`. -/
def Obligations.ResponseContextFaults : Prop :=
  ∀ (s : State) (buf count : Addr) (f : Option CbId) (cause : Byte), Writer s →
    (s.inDispatch = false ∨ s.responded = true) →
    exec (.prepareDataIn buf count) s = .fault .prepareContext
    ∧ exec (.prepareDataOut buf count f) s = .fault .prepareContext
    ∧ exec .prepareStatusIn s = .fault .prepareContext ∧ exec (.stallEp0 cause) s = .fault .prepareContext

/-- R211 to R213: the Setup stage latches the eight bytes that arrived and starts their dispatch; a completion that is no SETUP,
and a packet of another length, is stalled.  That the dispatch is the next step is the model's choice (log 10). -/
def Obligations.SetupStageResult : Prop :=
  ∀ s : State, Quiet s →
    ((s.ev.dir = .dirIn ∨ s.ev.setup = false) →
      exec .stageSetup s = .next (({ s with stageDue := false }).stalled 1))
    ∧ (s.ev.dir = .dirOut → s.ev.setup = true → 2 * bdIndex s.cfg 0 .countRx + 2 ≤ s.cfg.pmaBytes →
      (countOf (bdWord s 0 .countRx) ≠ 8 →
        exec .stageSetup s = .next (({ s with stageDue := false }).stalled 2))
      ∧ (countOf (bdWord s 0 .countRx) = 8 → s.cfg.ep0RxOff.toNat % 2 = 0 →
          s.cfg.ep0RxOff.toNat + 8 ≤ s.cfg.pmaBytes →
          ∃ p, parseSetup (s.pma.bytes s.cfg.ep0RxOff.toNat 8) = some p
            ∧ exec .stageSetup s = .next { s with
                stageDue := false, setup := some p, inDispatch := true, responded := false }))

/-- R215, R216, R218: a Data-In completion sends the next chunk while bytes remain, and else arms the OUT direction for the
status packet. -/
def Obligations.DataInStageResult : Prop :=
  ∀ s : State, Quiet s →
    (s.ctx.remaining ≠ 0 → chunkWritable s = true →
      exec .stageDataIn s = .next (({ s with stageDue := false }).chunkSent.setStat0 .dirIn .valid))
    ∧ (s.ctx.remaining = 0 →
      exec .stageDataIn s = .next ((({ s with stageDue := false, ctx := { s.ctx with stage := 4 } }).setEpr 0
        (s.epr[0] ||| 0x0100)).setStat0 .dirOut .valid))

/-- R220 to R222: a Data-Out completion copies what arrived, up to what remains; with nothing left (or a short packet, where the
parameter says so) it enters Status-In, and else re-arms OUT. -/
def Obligations.DataOutStageResult : Prop :=
  ∀ s : State, Quiet s → 2 * bdIndex s.cfg 0 .countRx + 2 ≤ s.cfg.pmaBytes →
    let rc := countOf (bdWord s 0 .countRx)
    let n := min s.ctx.remaining.toNat rc
    let u := { s.unpacked s.cfg.ep0RxOff s.ctx.buffer (BitVec.ofNat 16 n) with
      stageDue := false
      ctx := { s.ctx with buffer := s.ctx.buffer + BitVec.ofNat 32 n,
                          remaining := s.ctx.remaining - BitVec.ofNat 32 n } }
    pmaReadable s s.cfg.ep0RxOff s.ctx.buffer (BitVec.ofNat 16 n) = true →
    ((n = s.ctx.remaining.toNat ∨ (s.cfg.shortOutEnds = true ∧ rc < s.cfg.mps0)) → StatusInFree s →
      exec .stageDataOut s = .next ((({ u with ctx := { u.ctx with stage := 3 } }).putWords
        (bdWords s.cfg 0 [(.countTx, 0)])).setStat0 .dirIn .valid))
    ∧ (n < s.ctx.remaining.toNat → (s.cfg.shortOutEnds = false ∨ s.cfg.mps0 ≤ rc) →
      exec .stageDataOut s = .next (u.setStat0 .dirOut .valid))

/-- R224, R225, R227: the Status-In stage applies a pending address, and here only; runs the completion callback; clears the
context; and arms OUT for the next SETUP. -/
def Obligations.StatusInStageResult : Prop :=
  ∀ s : State, Quiet s → Passive s →
    let a := s.dev.pendingAddr
    let t := { s with stageDue := false }
    let u := if s.dev.addrPending = true then
        { t with
          daddr := 0x80 ||| a.setWidth 8
          dev := { s.dev with
            addrPending := false
            state := if a ≠ 0 ∧ s.dev.state = .default then .addressed
              else if a = 0 ∧ s.dev.state = .addressed then .default else s.dev.state } }
      else t
    (s.ctx.completion = none → exec .stageStatusIn s = .next (u.clearCtx.setStat0 .dirOut .valid))
    ∧ (∀ cb, s.ctx.completion = some cb →
        exec .stageStatusIn s = .next ((u.told (.callback cb) []).clearCtx.setStat0 .dirOut .valid))

/-- R226, R227: the Status-Out stage clears `EP_KIND` and the context and arms OUT for the next SETUP. -/
def Obligations.StatusOutStageResult : Prop :=
  ∀ s : State, Quiet s →
    exec .stageStatusOut s = .next ((({ s with
      stageDue := false
      ctx := { buffer := 0, remaining := 0, stage := 0, completion := none }
      dev := { s.dev with addrPending := false } }).setEpr 0 (s.epr[0] &&& 0xFEFF)).setStat0 .dirOut .valid)

/-! ## Requests (spec/44_requests.md) -/

/-- R253, R266, R321: a request of no dispatch point, of a null slot in the device state, and SYNCH_FRAME always, stalls endpoint
0 under its label, calls no driver, and leaves the latch dead.  That the labels stand in the record `stalls` is the model's
choice (log 16), here and wherever a statement names a stall's cause. -/
def Obligations.StalledRequests : Prop :=
  ∀ (s : State) (i : Instr) (pt : Option Point) (p : SetupPacket), Quiet s → requestOf i = some (pt, p) →
    (pt = none → exec i s = .next (s.stallDispatch p 3))
    ∧ (∀ q, pt = some q → s.cfg.legalPoint s.dev.state q = false → exec i s = .next (s.stallDispatch p 4))
    ∧ (pt = some .synchFrame → s.cfg.legalPoint s.dev.state .synchFrame = true →
        exec i s = .next (s.stallDispatch p 11))

/-- R258: SET_ADDRESS keeps the address pending and enters Status-In; `DADDR` is not written. -/
def Obligations.SetAddressResult : Prop :=
  ∀ (s : State) (r : Req), Quiet s → s.cfg.legalPoint s.dev.state .setAddress = true → StatusInFree s →
    exec (.setAddress r) s = .next (({ s.latched (r.packet 0 5) with
      dev := { s.dev with pendingAddr := r.wValue.extractLsb' 0 7, addrPending := true } }).statusIn.endDispatch)

/-- R263: SET_CONFIGURATION with a number that the driver calls valid changes the device state at once, and else stalls. -/
def Obligations.SetConfigurationResult : Prop :=
  ∀ (s : State) (r : Req), Quiet s → Passive s → s.cfg.legalPoint s.dev.state .setConfiguration = true →
    let u := (s.latched (r.packet 0 9)).asked .isConfigurationValid [(valueLow r).setWidth 16]
    (saysYes s .isConfigurationValid = true → StatusInFree s →
      exec (.setConfiguration r) s = .next
        (((u.told (.cap .setConfiguration) [(valueLow r).setWidth 16]).setDev
          (if valueLow r = 0 then .addressed else .configured)).statusIn.endDispatch))
    ∧ (saysYes s .isConfigurationValid = false →
        exec (.setConfiguration r) s = .next ((u.answered.stalled 9).endDispatch))

/-- R262, R264, R265: GET_CONFIGURATION and GET_INTERFACE answer the driver's byte from `status_buf`; SET_INTERFACE tells the
driver and enters Status-In; an interface that the driver calls invalid stalls.  Where
`status_buf` lies is a parameter (log 7). -/
def Obligations.InterfaceResults : Prop :=
  ∀ (s : State) (r : Req), Quiet s → Passive s →
    let num : Half := (ifNumber r).setWidth 16
    (s.cfg.legalPoint s.dev.state .getConfiguration = true →
      let u := (s.latched (r.packet 0 8)).asked .getConfiguration []
      let v := (answerOf s .getConfiguration).1.extractLsb' 0 8
      statusBufSendable u (r.packet 0 8) [v] = true →
      exec (.getConfiguration r) s = .next ((u.statusBufSent (r.packet 0 8) [v]).endDispatch))
    ∧ (s.cfg.legalPoint s.dev.state .getInterface = true →
      let t := (s.latched (r.packet 0 10)).asked .isInterfaceValid [num]
      let u := t.asked .getInterface [num]
      let v := (answerOf t .getInterface).1.extractLsb' 0 8
      (saysYes s .isInterfaceValid = true → statusBufSendable u (r.packet 0 10) [v] = true →
        exec (.getInterface r) s = .next ((u.statusBufSent (r.packet 0 10) [v]).endDispatch))
      ∧ (saysYes s .isInterfaceValid = false →
        exec (.getInterface r) s = .next ((t.answered.stalled 8).endDispatch)))
    ∧ (s.cfg.legalPoint s.dev.state .setInterface = true →
      let t := (s.latched (r.packet 0 11)).asked .isInterfaceValid [num]
      (saysYes s .isInterfaceValid = true → StatusInFree s →
        exec (.setInterface r) s = .next
          ((t.told (.cap .setInterface) [num, (valueLow r).setWidth 16]).statusIn.endDispatch))
      ∧ (saysYes s .isInterfaceValid = false →
        exec (.setInterface r) s = .next ((t.answered.stalled 8).endDispatch)))

/-- R255, R97, R267: GET_STATUS by recipient: the device's two bits from the driver, an interface's zeros if it is valid, an
endpoint's stall bit if it is valid; every other recipient, and an invalid one, stalls.  Where `status_buf` lies is a
parameter (log 7). -/
def Obligations.GetStatusResult : Prop :=
  ∀ (s : State) (r : Req), Quiet s → Passive s → s.cfg.legalPoint s.dev.state .getStatus = true →
    let p := r.packet 0 0
    let t := s.latched p
    let num : Byte := (r.wIndex.extractLsb' 0 4).setWidth 8
    let d : Dir := if r.wIndex.getLsbD 7 then .dirIn else .dirOut
    (r.recip = 0 →
      let u := (t.asked .isSelfpowered []).asked .getRemoteWakeup []
      let b : Byte := (if saysYes s .isSelfpowered then 1 else 0)
        ||| (if saysYes (t.asked .isSelfpowered []) .getRemoteWakeup then 2 else 0)
      statusBufSendable u p [b, 0] = true →
      exec (.getStatus r) s = .next ((u.statusBufSent p [b, 0]).endDispatch))
    ∧ (r.recip = 1 →
      let u := t.asked .isInterfaceValid [(ifNumber r).setWidth 16]
      (saysYes s .isInterfaceValid = true → statusBufSendable u p [0, 0] = true →
        exec (.getStatus r) s = .next ((u.statusBufSent p [0, 0]).endDispatch))
      ∧ (saysYes s .isInterfaceValid = false → exec (.getStatus r) s = .next ((u.answered.stalled 8).endDispatch)))
    ∧ (r.recip = 2 →
      let u := t.asked .isEndpointValid [num.setWidth 16, dirArg d]
      (∀ hn : num.toNat < 8,
        let b : Byte := if statOf d s.epr[epOf num hn] = .stall then 1 else 0
        (saysYes s .isEndpointValid = true → statusBufSendable u p [b, 0] = true →
          exec (.getStatus r) s = .next ((u.statusBufSent p [b, 0]).endDispatch))
        ∧ (saysYes s .isEndpointValid = false → exec (.getStatus r) s = .next ((u.answered.stalled 7).endDispatch)))
      ∧ (8 ≤ num.toNat → exec (.getStatus r) s = .next (s.stallDispatch p 7)))
    ∧ (2 < r.recip.toNat → exec (.getStatus r) s = .next (s.stallDispatch p 5))

/-- R256, R257, R267: CLEAR_FEATURE and SET_FEATURE: the device's remote wakeup through the driver, an endpoint's halt on its
register; every other feature or recipient, and an invalid endpoint, stalls. -/
def Obligations.FeatureResults : Prop :=
  ∀ (s : State) (r : Req), Quiet s → Passive s →
    let clears := s.cfg.legalPoint s.dev.state .clearFeature = true
    let sets := s.cfg.legalPoint s.dev.state .setFeature = true
    let p := r.packet 0 1
    let q := r.packet 0 3
    let num : Byte := (r.wIndex.extractLsb' 0 4).setWidth 8
    let d : Dir := if r.wIndex.getLsbD 7 then .dirIn else .dirOut
    let ask := fun k : SetupPacket => (s.latched k).asked .isEndpointValid [num.setWidth 16, dirArg d]
    (r.recip = 0 → r.wValue = 1 → StatusInFree s →
      (clears →
        exec (.clearFeature r) s = .next (((s.latched p).told (.cap .setRemoteWakeup) [0]).statusIn.endDispatch))
      ∧ (sets →
        exec (.setFeature r) s = .next (((s.latched q).told (.cap .setRemoteWakeup) [1]).statusIn.endDispatch)))
    ∧ (r.recip = 2 → r.wValue = 0 →
      (∀ hn : num.toNat < 8,
        (saysYes s .isEndpointValid = true →
          (clears → StatusInFree (s.setEpr (epOf num hn) (unstalledDir s.epr[epOf num hn] d)) →
            exec (.clearFeature r) s = .next (((((ask p).setEpr (epOf num hn) (unstalledDir s.epr[epOf num hn] d)).told
              (.cap .clearStall) [num.setWidth 16, dirArg d]).statusIn).endDispatch))
          ∧ (sets → StatusInFree (s.setEpr (epOf num hn) (stalledDir s.epr[epOf num hn] d)) →
            exec (.setFeature r) s = .next
              (((ask q).setEpr (epOf num hn) (stalledDir s.epr[epOf num hn] d)).statusIn.endDispatch)))
        ∧ (saysYes s .isEndpointValid = false →
          (clears → exec (.clearFeature r) s = .next (((ask p).answered.stalled 7).endDispatch))
          ∧ (sets → exec (.setFeature r) s = .next (((ask q).answered.stalled 7).endDispatch))))
      ∧ (8 ≤ num.toNat →
          (clears → exec (.clearFeature r) s = .next (s.stallDispatch p 7))
          ∧ (sets → exec (.setFeature r) s = .next (s.stallDispatch q 7))))
    ∧ (((r.recip = 0 ∧ r.wValue ≠ 1) ∨ (r.recip = 2 ∧ r.wValue ≠ 0)) →
        (clears → exec (.clearFeature r) s = .next (s.stallDispatch p 6))
        ∧ (sets → exec (.setFeature r) s = .next (s.stallDispatch q 6)))
    ∧ (r.recip ≠ 0 → r.recip ≠ 2 →
        (clears → exec (.clearFeature r) s = .next (s.stallDispatch p 5))
        ∧ (sets → exec (.setFeature r) s = .next (s.stallDispatch q 5)))

/-- R259, R260, R96: GET_DESCRIPTOR sends the lesser of `wLength` and the descriptor's own length; a type that is not served,
and a descriptor the driver lacks, stalls. -/
def Obligations.GetDescriptorResult : Prop :=
  ∀ (s : State) (r : Req), Quiet s → Passive s → s.cfg.legalPoint s.dev.state .getDescriptor = true →
    let p := r.packet 0 6
    (descriptorCall r = none → exec (.getDescriptor r) s = .next (s.stallDispatch p 10))
    ∧ ∀ (c : Cap) (as : List Half), descriptorCall r = some (c, as) →
      let u := (s.latched p).asked c as
      let a := (answerOf s c).1
      let len := descriptorLength s (valueHigh r) a
      let n : Addr := if len.toNat ≤ r.wLength.toNat then len.setWidth 32 else r.wLength.setWidth 32
      ((answerOf s c).2 = 0 → exec (.getDescriptor r) s = .next ((u.answered.stalled 10).endDispatch))
      ∧ ((answerOf s c).2 ≠ 0 → descriptorMapped s (valueHigh r) a = true → chunkWritable (u.dataInCtx p a n) = true →
          exec (.getDescriptor r) s = .next ((u.dataIn p a n).endDispatch))

/-- R254, R261, R250, R321, R376: a class, vendor or SET_DESCRIPTOR request is handed to the driver, which may give one of the four
responses or none; a driver's stall has the label 12, whatever its call names; a null class or vendor callback is the fatal
assertion `NULL_DRIVER_CB`.  That the label stands in the record `stalls` is the model's choice (log 16). -/
def Obligations.ForwardResults : Prop :=
  ∀ (s : State) (i : Instr) (c : Cap) (pt : Point) (p : SetupPacket), Quiet s →
    requestOf i = some (some pt, p) → s.cfg.legalPoint s.dev.state pt = true →
    ((pt = .setDescriptor ∧ c = .setDescriptor) ∨ (pt = .classPoint ∧ c = .classRequest)
      ∨ (pt = .vendorPoint ∧ c = .vendorRequest)) →
    let u := (s.latched p).told (.cap c) [p.key, p.wValue, p.wIndex, p.wLength]
    (pt ≠ .setDescriptor → hasCap s.driver c = false →
      exec i s = .next { s.latched p with fatal := some .nullDriverCb })
    ∧ ((pt = .setDescriptor ∨ hasCap s.driver c = true) →
      (Passive s → exec i s = .next u.endDispatch)
      ∧ (∀ d q, takeAnswer (.cap c) s.answers = some (d, q) →
        (d.acts = [.call .prepareStatusIn] → StatusInFree s → exec i s = .next u.statusIn.endDispatch)
        ∧ (∀ b n, d.acts = [.call (.prepareDataIn b n)] → chunkWritable (u.dataInCtx p b n) = true →
            exec i s = .next (u.dataIn p b n).endDispatch)
        ∧ (∀ b f, d.acts = [.call (.prepareDataOut b 0 f)] → StatusInFree s →
            exec i s = .next ({ u.answered with
              ctx := { buffer := b, remaining := 0, stage := 3, completion := f } }).statusInEntered.endDispatch)
        ∧ (∀ b n f, d.acts = [.call (.prepareDataOut b n f)] → n ≠ 0 →
            exec i s = .next (({ u.answered with
              ctx := { buffer := b, remaining := n, stage := 2, completion := f } }).setStat0 .dirOut .valid).endDispatch)
        ∧ (∀ k, d.acts = [.call (.stallEp0 k)] → exec i s = .next (u.answered.stalled 12).endDispatch)))

/-! ## Events (spec/60_exceptions.md) -/

/-- R331, R332, R198: a completion's flag is cleared before its callback runs; a SETUP on endpoint 0 clears the context; the
endpoint-0 callback is then due with the event; a null callback is the fatal assertion `NO_HANDLER`; an endpoint above 7 is
`Fault(BAD_EP_ID)`.  That the stage is the next step is the model's choice (log 10). -/
def Obligations.CtrResults : Prop :=
  ∀ (s : State) (d : Dir), Quiet s → Passive s →
    let t := { s with isrPending := s.isrPending &&& 0x7FFF }
    (∀ i, i = (if d = .dirOut then .ctrEp0Out else .ctrEp0In) →
      let u := t.setEpr 0 (s.epr[0] &&& ~~~ ctrBit d)
      let v := if d = .dirOut ∧ setupOf s.epr[0] = true then u.clearCtx else u
      (∀ cb, s.ept[0].callback d = some cb →
        exec i s = .next { v with stageDue := true, ev := { dir := d, setup := setupOf s.epr[0] } })
      ∧ (s.ept[0].callback d = none → exec i s = .next { v with fatal := some .noHandler }))
    ∧ ∀ (n : BitVec 4) (i : Instr), i = (if d = .dirOut then .ctrEpnOut n else .ctrEpnIn n) →
      (∀ hn : n.toNat < 8,
        let u := t.setEpr ⟨n.toNat, hn⟩ (s.epr[n.toNat] &&& ~~~ ctrBit d)
        (∀ cb, s.ept[n.toNat].callback d = some cb → exec i s = .next (u.told (.callback cb) []))
        ∧ (s.ept[n.toNat].callback d = none → exec i s = .next { u with fatal := some .noHandler }))
      ∧ (8 ≤ n.toNat → exec i s = .fault .badEpId)

/-- R334 to R337, R29: the bus-reset handler unregisters every endpoint and registers endpoint 0 as the control endpoint, sets
`DADDR` to 0x80, clears the context and the device state; suspend saves and wakeup restores the device state; start of frame
runs its hook alone; each notes its flag for the write-back.  The id of the endpoint-0 callback is the model's number (log 30). -/
def Obligations.BusEventResults : Prop :=
  ∀ s : State, Quiet s →
    (s.cfg.legal = true →
      let m : Half := BitVec.ofNat 16 s.cfg.mps0
      exec .evReset s = .next { s with
        isrPending := s.isrPending &&& 0xFBFF
        isrHandled := s.isrHandled ||| 0x0400
        epr := (s.epr.map (· &&& 0x0800)).set 0 ((s.epr[0] &&& 0x0800) ||| 0x3220)
        ept := (Vector.replicate 8 EptEntry.unregistered).set 0
          { mode := .single, ty := .control, txAddr := s.cfg.ep0TxOff, rxAddr := s.cfg.ep0RxOff, rxCount := m,
            inCb := some controlFsm, outCb := some controlFsm }
        pma := s.pma.writeWords (bdWords s.cfg 0 [(.addrTx, s.cfg.ep0TxOff), (.countTx, 0),
          (.addrRx, s.cfg.ep0RxOff), (.countRx, encodeRx m)])
        daddr := 0x80
        ctx := { buffer := 0, remaining := 0, stage := 0, completion := none }
        dev := { s.dev with state := .default, previous := .default, addrPending := false } })
    ∧ (Passive s →
      (let t := { s with
          isrPending := s.isrPending &&& 0xF7FF
          dev := if s.dev.state = DevState.suspended then s.dev
            else { s.dev with previous := s.dev.state, state := .suspended } }
       exec .evSusp s = .next { (if hasCap s.driver .suspend then t.told (.cap .suspend) [] else t) with
         isrHandled := s.isrHandled ||| 0x0800 })
      ∧ (let t := { s with
          isrPending := s.isrPending &&& 0xEFFF
          dev := if s.dev.state = DevState.suspended then { s.dev with state := s.dev.previous } else s.dev }
         exec .evWkup s = .next { (if hasCap s.driver .wakeup then t.told (.cap .wakeup) [] else t) with
           isrHandled := s.isrHandled ||| 0x1000 })
      ∧ (let t := { s with isrPending := s.isrPending &&& 0xFDFF }
         exec .evSof s = .next { (if hasCap s.driver .startOfFrame then t.told (.cap .startOfFrame) [] else t) with
           isrHandled := s.isrHandled ||| 0x0200 }))

/-! ## The SIE (spec/45_sie_host.md) -/

/-- R290 to R296, R302 to R304: the transactions: what an accepted one writes and answers (the received count goes into
`COUNT_RX[9:0]` of the word as the packet has left it); a token for no endpoint, a disabled direction and an oversize packet get
no answer; NAK and STALL change no state; an IN past the packet memory is `Fault(PMA_BOUNDS)`.  The toggles after a SETUP are free
values (log 11); a packet over 1023 bytes is not answered (log 24); that a SETUP, an OUT and a descriptor word past the packet
memory fault too is the model's reading (log 9). -/
def Obligations.SieTransactions : Prop :=
  ∀ (s : State) (ad : BitVec 7) (e : BitVec 4) (d : List Byte),
    let say := fun b : BusAnswer => Host.Outcome.next (φ := Fault) (ρ := Refusal) { s with bus := b :: s.bus }
    ((s.daddr.getLsbD 7 = false ∨ s.daddr.extractLsb' 0 7 ≠ ad ∨
        (∀ n : Fin 8, eaOf s.epr[n] = e → statOf .dirOut s.epr[n] = .disabled ∧ statOf .dirIn s.epr[n] = .disabled)) →
      exec (.hostSetup ad e d) s = say .noAnswer ∧ exec (.hostOut ad e d) s = say .noAnswer
      ∧ exec (.hostIn ad e) s = say .noAnswer)
    ∧ ∀ n : Fin 8, s.daddr.getLsbD 7 = true → s.daddr.extractLsb' 0 7 = ad → eaOf s.epr[n] = e →
      (statOf .dirOut s.epr[n] ≠ .disabled ∨ statOf .dirIn s.epr[n] ≠ .disabled) →
      (∀ k : Fin 8, k < n → eaOf s.epr[k] = e →
        statOf .dirOut s.epr[k] = .disabled ∧ statOf .dirIn s.epr[k] = .disabled) →
      let r := s.epr[n]
      let w := bdWord s n .countRx
      let k := bdIndex s.cfg n .countRx
      let a := bufOffset (bdWord s n .addrRx)
      let stored := s.pma.writeBytes a d
      let put := stored.writeWord k ((stored.word k &&& 0xFC00) ||| BitVec.ofNat 16 d.length)
      let readable := 2 * k + 2 ≤ s.cfg.pmaBytes
      let oversize := rxSize w < d.length ∨ 1023 < d.length
      let past := d ≠ [] ∧ s.cfg.pmaBytes < a + d.length
      let room := readable ∧ ¬ oversize ∧ ¬ past
      let k' := bdIndex s.cfg n .countTx
      let b := bufOffset (bdWord s n .addrTx)
      let len := countOf (bdWord s n .countTx)
      ((typeOf r ≠ .control ∨ statOf .dirOut r = .disabled ∨ ctrOf .dirOut r = true) →
        exec (.hostSetup ad e d) s = say .noAnswer)
      ∧ (typeOf r = .control → statOf .dirOut r ≠ .disabled → ctrOf .dirOut r = false →
        (¬ readable → exec (.hostSetup ad e d) s = .fault .pmaBounds)
        ∧ (readable → oversize → exec (.hostSetup ad e d) s = say .noAnswer)
        ∧ (readable → ¬ oversize → past → exec (.hostSetup ad e d) s = .fault .pmaBounds)
        ∧ (room → exec (.hostSetup ad e d) s = .next { s with
          pma := put, draws := s.draws + 1, bus := .ack :: s.bus
          epr := s.epr.set n ((r &&& 0x078F) ||| 0xA820
            ||| (if (Config.freeToggles s.draws).getLsbD 0 then 0x4000 else 0)
            ||| (if (Config.freeToggles s.draws).getLsbD 1 then 0x0040 else 0)) }))
      ∧ (doubleBuffered r = true → exec (.hostOut ad e d) s = .refused .doubleBuffered
          ∧ exec (.hostIn ad e) s = .refused .doubleBuffered)
      ∧ (doubleBuffered r = false →
        (statOf .dirOut r = .disabled → exec (.hostOut ad e d) s = say .noAnswer)
        ∧ (statOf .dirOut r = .nak → exec (.hostOut ad e d) s = say .nak)
        ∧ (statOf .dirOut r = .stall → exec (.hostOut ad e d) s = say .stall)
        ∧ (statOf .dirOut r = .valid →
          (typeOf r = .control → kindOf r = true → d ≠ [] → exec (.hostOut ad e d) s = say .stall)
          ∧ ((typeOf r ≠ .control ∨ kindOf r = false ∨ d = []) →
            (¬ readable → exec (.hostOut ad e d) s = .fault .pmaBounds)
            ∧ (readable → oversize → exec (.hostOut ad e d) s = say .noAnswer)
            ∧ (readable → ¬ oversize → past → exec (.hostOut ad e d) s = .fault .pmaBounds)
            ∧ (room → exec (.hostOut ad e d) s = .next { s with
                pma := put, bus := .ack :: s.bus
                epr := s.epr.set n (((r &&& 0x47FF) ||| 0xA000) ^^^ 0x4000) })))
        ∧ (statOf .dirIn r = .disabled → exec (.hostIn ad e) s = say .noAnswer)
        ∧ (statOf .dirIn r = .nak → exec (.hostIn ad e) s = say .nak)
        ∧ (statOf .dirIn r = .stall → exec (.hostIn ad e) s = say .stall)
        ∧ (statOf .dirIn r = .valid →
          (s.cfg.pmaBytes < 2 * k' + 2 ∨ s.cfg.pmaBytes < b + len → exec (.hostIn ad e) s = .fault .pmaBounds)
          ∧ (2 * k' + 2 ≤ s.cfg.pmaBytes → b + len ≤ s.cfg.pmaBytes →
            exec (.hostIn ad e) s = .next { s with
              bus := .data (dtogTx r) (s.pma.bytes b len) :: s.bus
              epr := s.epr.set n (((r &&& 0xFF4F) ||| 0x00A0) ^^^ 0x0040) })))

/-- R297 to R300: the bus events: a bus reset zeroes the endpoint registers and `DADDR` and sets its flag; suspend, resume and
start of frame set their flag and nothing else. -/
def Obligations.SieBusEvents : Prop :=
  ∀ (s : State) (f : BitVec 11),
    exec .hostBusReset s = .next { s with epr := Vector.replicate 8 0, daddr := 0, istr := s.istr ||| 0x0400 }
    ∧ exec .hostSuspend s = .next { s with istr := s.istr ||| 0x0800 }
    ∧ exec .hostResume s = .next { s with istr := s.istr ||| 0x1000 }
    ∧ exec (.hostSof f) s = .next { s with istr := s.istr ||| 0x0200 }
end

