-- ==== Sys2Proof/Laws/Word.lean ====
section
/-! SUPPORT. Words and bytes: splitting a word and joining its bytes gives it back (R64, R65), and operand codes read back. -/

namespace Sys2Proof

@[simp] theorem byteAt_le16_low (lo hi : Byte) : byteAt (le16 lo hi) 0 = lo := by
  ext i hi'
  simp only [byteAt, le16, BitVec.getElem_extractLsb', BitVec.getLsbD_append]
  simp [hi']

@[simp] theorem byteAt_le16_high (lo hi : Byte) : byteAt (le16 lo hi) 1 = hi := by
  ext i hi'
  simp only [byteAt, le16, BitVec.getElem_extractLsb', BitVec.getLsbD_append]
  simp [hi']

@[simp] theorem le16_byteAt (v : Half) : le16 (byteAt v 0) (byteAt v 1) = v := by
  apply BitVec.eq_of_getLsbD_eq
  intro i hi
  simp only [byteAt, le16, BitVec.getLsbD_append, BitVec.getLsbD_extractLsb']
  split
  · rename_i h
    simp [h]
  · rename_i h
    rw [show 8 * 1 + (i - 8) = i from by omega, show decide (i - 8 < 8) = true from by simp; omega]
    simp

@[simp] theorem le32_byteAt (v : Addr) : le32 (byteAt v 0) (byteAt v 1) (byteAt v 2) (byteAt v 3) = v := by
  apply BitVec.eq_of_getLsbD_eq
  intro i hi
  simp only [byteAt, le32, le16, BitVec.getLsbD_append, BitVec.getLsbD_extractLsb']
  split
  · split
    · rename_i h
      simp [h]
    · rw [show 8 * 1 + (i - 8) = i from by omega, show decide (i - 8 < 8) = true from by simp; omega]
      simp
  · split
    · rw [show 8 * 2 + (i - (8 + 8)) = i from by omega, show decide (i - (8 + 8) < 8) = true from by simp; omega]
      simp
    · rw [show 8 * 3 + (i - (8 + 8) - 8) = i from by omega,
        show decide (i - (8 + 8) - 8 < 8) = true from by simp; omega]
      simp

@[simp] theorem EpType.ofCode_code (t : EpType) : EpType.ofCode t.code = t := by cases t <;> decide

@[simp] theorem Stat.ofCode_code (s : Stat) : Stat.ofCode s.code = s := by cases s <;> decide

@[simp] theorem EpType.ofByte_code (t : EpType) : EpType.ofByte (byteOfCode t.code) = some t := by
  cases t <;> decide

@[simp] theorem Stat.ofByte_code (s : Stat) : Stat.ofByte (byteOfCode s.code) = some s := by
  cases s <;> decide

@[simp] theorem Dir.ofByte_code (d : Dir) : Dir.ofByte d.code = some d := by cases d <;> decide

/-- A callback operand reads back; the id 0 stands for null. -/
theorem cbOfWord_cbWord {cb : Option CbId} (h : cbOk cb = true) : cbOfWord (cbWord cb) = cb := by
  cases cb with
  | none => rfl
  | some c =>
    have hc : c ≠ 0 := by
      intro h0
      subst h0
      exact absurd h (by decide)
    exact if_neg hc

@[simp] theorem driverOfWord_driverWord (d : Option DriverFlags) : driverOfWord (driverWord d) = some d := by
  cases d with
  | none => rfl
  | some f =>
    have hh : (driverWord (some f)).extractLsb' 21 11 = 0x400#11 := by
      apply BitVec.eq_of_getLsbD_eq
      intro i hi
      simp only [driverWord, BitVec.getLsbD_extractLsb', BitVec.getLsbD_append]
      simp [hi]
    have hl : (driverWord (some f)).extractLsb' 0 21 = f := by
      apply BitVec.eq_of_getLsbD_eq
      intro i hi
      simp only [driverWord, BitVec.getLsbD_extractLsb', BitVec.getLsbD_append]
      simp [hi]
    have hn : driverWord (some f) ≠ 0 := by
      intro h
      rw [h] at hh
      exact absurd hh (by decide)
    unfold driverOfWord
    rw [if_neg hn, if_pos hh, hl]

end Sys2Proof
end

