-- ==== Sys2Proof/Laws/Memory.lean ====
section
/-! SUPPORT. Memories: what a read gives after a write, and that every write keeps the canonical form. -/

namespace Sys2Proof.Machine

open Sys2Proof

/-! ## Reads after writes -/

theorem Memory.read_insert (m : Memory) (a b : Nat) (v : Byte) :
    (Memory.insert a v m).read b = if a = b then v else m.read b := by
  induction m with
  | nil => simp [Memory.insert, Memory.read]
  | cons c m ih =>
    obtain ⟨k, w⟩ := c
    simp only [Memory.insert]
    split
    · simp [Memory.read]
    · split
      · rename_i h
        subst h
        by_cases hb : a = b <;> simp [Memory.read, hb]
      · rename_i h1 h2
        simp only [Memory.read, ih]
        by_cases hk : k = b
        · have : ¬ a = b := by omega
          simp [hk, this]
        · simp [hk]

theorem Memory.read_erase (m : Memory) (a b : Nat) :
    (Memory.erase a m).read b = if a = b then Memory.unlisted else m.read b := by
  induction m with
  | nil => simp [Memory.erase, Memory.read]
  | cons c m ih =>
    obtain ⟨k, w⟩ := c
    simp only [Memory.erase]
    split
    · rename_i h
      subst h
      rw [ih]
      by_cases hb : a = b <;> simp [Memory.read, hb]
    · rename_i h
      simp only [Memory.read, ih]
      by_cases hk : k = b
      · have : ¬ a = b := by omega
        simp [hk, this]
      · simp [hk]

/-- A byte read after a byte write: the byte written, and every other byte as it was. -/
theorem Memory.read_write (m : Memory) (a b : Nat) (v : Byte) :
    (m.write a v).read b = if a = b then v else m.read b := by
  unfold Memory.write
  split
  · rename_i h
    rw [Memory.read_erase, h]
  · exact Memory.read_insert m a b v

theorem Memory.read_writeWord (m : Memory) (k b : Nat) (v : Half) :
    (m.writeWord k v).read b =
      if b = 2 * k then byteAt v 0 else if b = 2 * k + 1 then byteAt v 1 else m.read b := by
  simp only [Memory.writeWord, Memory.read_write]
  by_cases h0 : b = 2 * k
  · subst h0
    simp
  · by_cases h1 : b = 2 * k + 1
    · subst h1
      simp
    · rw [if_neg (by omega), if_neg (by omega), if_neg h0, if_neg h1]

/-- A word read after a word write. -/
theorem Memory.word_writeWord (m : Memory) (k j : Nat) (v : Half) :
    (m.writeWord k v).word j = if j = k then v else m.word j := by
  simp only [Memory.word, Memory.read_writeWord]
  by_cases h : j = k
  · subst h
    simp
  · rw [if_neg h, if_neg (by omega), if_neg (by omega), if_neg (by omega), if_neg (by omega)]

/-- A byte read after the write of a byte string. -/
theorem Memory.read_writeBytes (d : List Byte) (m : Memory) (a b : Nat) :
    (m.writeBytes a d).read b =
      if h : a ≤ b ∧ b - a < d.length then d[b - a] else m.read b := by
  induction d generalizing m a with
  | nil => simp [Memory.writeBytes]
  | cons x d ih =>
    simp only [Memory.writeBytes, ih]
    by_cases hb : a = b
    · subst hb
      rw [dif_neg (by omega), dif_pos (by simp)]
      simp [Memory.read_write]
    · by_cases hin : a ≤ b ∧ b - a < (x :: d).length
      · have h1 : a + 1 ≤ b ∧ b - (a + 1) < d.length := by
          simp only [List.length_cons] at hin
          omega
        rw [dif_pos h1, dif_pos hin]
        have hs : b - a = (b - (a + 1)) + 1 := by omega
        simp only [hs, List.getElem_cons_succ]
      · have h1 : ¬ (a + 1 ≤ b ∧ b - (a + 1) < d.length) := by
          simp only [List.length_cons] at hin
          omega
        rw [dif_neg h1, dif_neg hin, Memory.read_write, if_neg hb]

theorem Memory.length_bytes (m : Memory) (a n : Nat) : (m.bytes a n).length = n := by
  induction n generalizing a with
  | zero => rfl
  | succ n ih => simp [Memory.bytes, ih]

theorem Memory.getElem_bytes (m : Memory) (a n i : Nat) (h : i < (m.bytes a n).length) :
    (m.bytes a n)[i] = m.read (a + i) := by
  induction n generalizing a i with
  | zero => simp [Memory.bytes] at h
  | succ n ih =>
    cases i with
    | zero => simp [Memory.bytes]
    | succ i =>
      simp only [Memory.bytes, List.getElem_cons_succ]
      rw [ih]
      congr 1
      omega

/-! ## The canonical form -/

theorem Memory.wfFrom_weaken {m : Memory} {l l' : Nat} (h : Memory.wfFrom (some l) m = true) (hl : l' ≤ l) :
    Memory.wfFrom (some l') m = true := by
  cases m with
  | nil => rfl
  | cons c m =>
    obtain ⟨k, v⟩ := c
    simp only [Memory.wfFrom, Memory.above, Bool.and_eq_true, decide_eq_true_eq] at h ⊢
    exact ⟨⟨by omega, h.1.2⟩, h.2⟩

theorem Memory.wfFrom_none {m : Memory} {l : Nat} (h : Memory.wfFrom (some l) m = true) :
    Memory.wfFrom none m = true := by
  cases m with
  | nil => rfl
  | cons c m =>
    obtain ⟨k, v⟩ := c
    simp only [Memory.wfFrom, Memory.above, Bool.and_eq_true, Bool.true_and] at h ⊢
    exact ⟨h.1.2, h.2⟩

theorem Memory.wfFrom_insert {m : Memory} {lo : Option Nat} {a : Nat} {v : Byte} (hv : v ≠ Memory.unlisted)
    (ha : ∀ l, lo = some l → l < a) (h : Memory.wfFrom lo m = true) :
    Memory.wfFrom lo (Memory.insert a v m) = true := by
  have hlo : Memory.above lo a = true := by
    cases lo with
    | none => rfl
    | some l => exact decide_eq_true (ha l rfl)
  clear ha
  induction m generalizing lo with
  | nil => simp [Memory.insert, Memory.wfFrom, hv, hlo]
  | cons c m ih =>
    obtain ⟨k, w⟩ := c
    simp only [Memory.wfFrom, Bool.and_eq_true] at h
    simp only [Memory.insert]
    split
    · rename_i hk
      simp only [Memory.wfFrom, Bool.and_eq_true]
      exact ⟨⟨hlo, by simp [hv]⟩, ⟨decide_eq_true hk, h.1.2⟩, h.2⟩
    · split
      · rename_i hk
        subst hk
        simp only [Memory.wfFrom, Bool.and_eq_true]
        exact ⟨⟨hlo, by simp [hv]⟩, h.2⟩
      · rename_i h1 h2
        have hka : k < a := by omega
        simp only [Memory.wfFrom, Bool.and_eq_true]
        exact ⟨h.1, ih h.2 (decide_eq_true hka)⟩

theorem Memory.wfFrom_erase {m : Memory} {lo : Option Nat} {a : Nat} (h : Memory.wfFrom lo m = true) :
    Memory.wfFrom lo (Memory.erase a m) = true := by
  induction m generalizing lo with
  | nil => rfl
  | cons c m ih =>
    obtain ⟨k, w⟩ := c
    simp only [Memory.wfFrom, Bool.and_eq_true] at h
    simp only [Memory.erase]
    split
    · cases lo with
      | none => exact ih (Memory.wfFrom_none h.2)
      | some l =>
        have hl : l < k := by simpa [Memory.above] using h.1.1
        exact ih (Memory.wfFrom_weaken h.2 (by omega))
    · simp only [Memory.wfFrom, Bool.and_eq_true]
      exact ⟨h.1, ih h.2⟩

/-- A byte write keeps the canonical form. -/
theorem Memory.wf_write {m : Memory} (h : m.wf = true) (a : Nat) (v : Byte) : (m.write a v).wf = true := by
  unfold Memory.write
  split
  · exact Memory.wfFrom_erase h
  · rename_i hv
    exact Memory.wfFrom_insert hv (by simp) h

/-- A word write keeps the canonical form. -/
theorem Memory.wf_writeWord {m : Memory} (h : m.wf = true) (k : Nat) (v : Half) : (m.writeWord k v).wf = true :=
  Memory.wf_write (Memory.wf_write h _ _) _ _

/-- The write of a byte string keeps the canonical form. -/
theorem Memory.wf_writeBytes (d : List Byte) {m : Memory} (h : m.wf = true) (a : Nat) :
    (m.writeBytes a d).wf = true := by
  induction d generalizing m a with
  | nil => exact h
  | cons x d ih => exact ih (Memory.wf_write h a x) (a + 1)

theorem Memory.wf_nil : Memory.wf [] = true := rfl

end Sys2Proof.Machine
end

