-- ==== Sys2Proof/Laws/State.lean ====
section
/-! SUPPORT. The named updates of the state, field by field: each field an update writes, and each it leaves. -/

namespace Sys2Proof.Machine

section setEpr

variable (s : State) (n : Fin 8) (r : Half)

@[simp] theorem State.setEpr_cfg : (s.setEpr n r).cfg = s.cfg := rfl
@[simp] theorem State.setEpr_ctx : (s.setEpr n r).ctx = s.ctx := rfl
@[simp] theorem State.setEpr_setup : (s.setEpr n r).setup = s.setup := rfl
@[simp] theorem State.setEpr_inDispatch : (s.setEpr n r).inDispatch = s.inDispatch := rfl
@[simp] theorem State.setEpr_responded : (s.setEpr n r).responded = s.responded := rfl
@[simp] theorem State.setEpr_dev : (s.setEpr n r).dev = s.dev := rfl
@[simp] theorem State.setEpr_ept : (s.setEpr n r).ept = s.ept := rfl
@[simp] theorem State.setEpr_fatal : (s.setEpr n r).fatal = s.fatal := rfl
@[simp] theorem State.setEpr_inIsr : (s.setEpr n r).inIsr = s.inIsr := rfl
@[simp] theorem State.setEpr_irqMasked : (s.setEpr n r).irqMasked = s.irqMasked := rfl
@[simp] theorem State.setEpr_isrPending : (s.setEpr n r).isrPending = s.isrPending := rfl
@[simp] theorem State.setEpr_isrHandled : (s.setEpr n r).isrHandled = s.isrHandled := rfl
@[simp] theorem State.setEpr_stageDue : (s.setEpr n r).stageDue = s.stageDue := rfl
@[simp] theorem State.setEpr_ev : (s.setEpr n r).ev = s.ev := rfl
@[simp] theorem State.setEpr_driver : (s.setEpr n r).driver = s.driver := rfl
@[simp] theorem State.setEpr_epr : (s.setEpr n r).epr = s.epr.set n r := rfl
@[simp] theorem State.setEpr_istr : (s.setEpr n r).istr = s.istr := rfl
@[simp] theorem State.setEpr_cntr : (s.setEpr n r).cntr = s.cntr := rfl
@[simp] theorem State.setEpr_daddr : (s.setEpr n r).daddr = s.daddr := rfl
@[simp] theorem State.setEpr_btable : (s.setEpr n r).btable = s.btable := rfl
@[simp] theorem State.setEpr_pma : (s.setEpr n r).pma = s.pma := rfl
@[simp] theorem State.setEpr_cpu : (s.setEpr n r).cpu = s.cpu := rfl
@[simp] theorem State.setEpr_ret : (s.setEpr n r).ret = s.ret := rfl
@[simp] theorem State.setEpr_busData : (s.setEpr n r).busData = s.busData := rfl
@[simp] theorem State.setEpr_seen : (s.setEpr n r).seen = s.seen := rfl
@[simp] theorem State.setEpr_trace : (s.setEpr n r).trace = s.trace := rfl
@[simp] theorem State.setEpr_window : (s.setEpr n r).window = s.window := rfl
@[simp] theorem State.setEpr_answers : (s.setEpr n r).answers = s.answers := rfl
@[simp] theorem State.setEpr_calls : (s.setEpr n r).calls = s.calls := rfl
@[simp] theorem State.setEpr_bus : (s.setEpr n r).bus = s.bus := rfl
@[simp] theorem State.setEpr_stalls : (s.setEpr n r).stalls = s.stalls := rfl
@[simp] theorem State.setEpr_draws : (s.setEpr n r).draws = s.draws := rfl

end setEpr

section setEpt

variable (s : State) (n : Fin 8) (e : EptEntry)

@[simp] theorem State.setEpt_cfg : (s.setEpt n e).cfg = s.cfg := rfl
@[simp] theorem State.setEpt_ctx : (s.setEpt n e).ctx = s.ctx := rfl
@[simp] theorem State.setEpt_setup : (s.setEpt n e).setup = s.setup := rfl
@[simp] theorem State.setEpt_inDispatch : (s.setEpt n e).inDispatch = s.inDispatch := rfl
@[simp] theorem State.setEpt_responded : (s.setEpt n e).responded = s.responded := rfl
@[simp] theorem State.setEpt_dev : (s.setEpt n e).dev = s.dev := rfl
@[simp] theorem State.setEpt_ept : (s.setEpt n e).ept = s.ept.set n e := rfl
@[simp] theorem State.setEpt_fatal : (s.setEpt n e).fatal = s.fatal := rfl
@[simp] theorem State.setEpt_inIsr : (s.setEpt n e).inIsr = s.inIsr := rfl
@[simp] theorem State.setEpt_irqMasked : (s.setEpt n e).irqMasked = s.irqMasked := rfl
@[simp] theorem State.setEpt_isrPending : (s.setEpt n e).isrPending = s.isrPending := rfl
@[simp] theorem State.setEpt_isrHandled : (s.setEpt n e).isrHandled = s.isrHandled := rfl
@[simp] theorem State.setEpt_stageDue : (s.setEpt n e).stageDue = s.stageDue := rfl
@[simp] theorem State.setEpt_ev : (s.setEpt n e).ev = s.ev := rfl
@[simp] theorem State.setEpt_driver : (s.setEpt n e).driver = s.driver := rfl
@[simp] theorem State.setEpt_epr : (s.setEpt n e).epr = s.epr := rfl
@[simp] theorem State.setEpt_istr : (s.setEpt n e).istr = s.istr := rfl
@[simp] theorem State.setEpt_cntr : (s.setEpt n e).cntr = s.cntr := rfl
@[simp] theorem State.setEpt_daddr : (s.setEpt n e).daddr = s.daddr := rfl
@[simp] theorem State.setEpt_btable : (s.setEpt n e).btable = s.btable := rfl
@[simp] theorem State.setEpt_pma : (s.setEpt n e).pma = s.pma := rfl
@[simp] theorem State.setEpt_cpu : (s.setEpt n e).cpu = s.cpu := rfl
@[simp] theorem State.setEpt_ret : (s.setEpt n e).ret = s.ret := rfl
@[simp] theorem State.setEpt_busData : (s.setEpt n e).busData = s.busData := rfl
@[simp] theorem State.setEpt_seen : (s.setEpt n e).seen = s.seen := rfl
@[simp] theorem State.setEpt_trace : (s.setEpt n e).trace = s.trace := rfl
@[simp] theorem State.setEpt_window : (s.setEpt n e).window = s.window := rfl
@[simp] theorem State.setEpt_answers : (s.setEpt n e).answers = s.answers := rfl
@[simp] theorem State.setEpt_calls : (s.setEpt n e).calls = s.calls := rfl
@[simp] theorem State.setEpt_bus : (s.setEpt n e).bus = s.bus := rfl
@[simp] theorem State.setEpt_stalls : (s.setEpt n e).stalls = s.stalls := rfl
@[simp] theorem State.setEpt_draws : (s.setEpt n e).draws = s.draws := rfl

end setEpt

section clearCtx

variable (s : State)

@[simp] theorem State.clearCtx_cfg : (s.clearCtx).cfg = s.cfg := rfl
@[simp] theorem State.clearCtx_ctx : (s.clearCtx).ctx = Ctx.cleared := rfl
@[simp] theorem State.clearCtx_setup : (s.clearCtx).setup = s.setup := rfl
@[simp] theorem State.clearCtx_inDispatch : (s.clearCtx).inDispatch = s.inDispatch := rfl
@[simp] theorem State.clearCtx_responded : (s.clearCtx).responded = s.responded := rfl
@[simp] theorem State.clearCtx_dev : (s.clearCtx).dev = { s.dev with addrPending := false } := rfl
@[simp] theorem State.clearCtx_ept : (s.clearCtx).ept = s.ept := rfl
@[simp] theorem State.clearCtx_fatal : (s.clearCtx).fatal = s.fatal := rfl
@[simp] theorem State.clearCtx_inIsr : (s.clearCtx).inIsr = s.inIsr := rfl
@[simp] theorem State.clearCtx_irqMasked : (s.clearCtx).irqMasked = s.irqMasked := rfl
@[simp] theorem State.clearCtx_isrPending : (s.clearCtx).isrPending = s.isrPending := rfl
@[simp] theorem State.clearCtx_isrHandled : (s.clearCtx).isrHandled = s.isrHandled := rfl
@[simp] theorem State.clearCtx_stageDue : (s.clearCtx).stageDue = s.stageDue := rfl
@[simp] theorem State.clearCtx_ev : (s.clearCtx).ev = s.ev := rfl
@[simp] theorem State.clearCtx_driver : (s.clearCtx).driver = s.driver := rfl
@[simp] theorem State.clearCtx_epr : (s.clearCtx).epr = s.epr := rfl
@[simp] theorem State.clearCtx_istr : (s.clearCtx).istr = s.istr := rfl
@[simp] theorem State.clearCtx_cntr : (s.clearCtx).cntr = s.cntr := rfl
@[simp] theorem State.clearCtx_daddr : (s.clearCtx).daddr = s.daddr := rfl
@[simp] theorem State.clearCtx_btable : (s.clearCtx).btable = s.btable := rfl
@[simp] theorem State.clearCtx_pma : (s.clearCtx).pma = s.pma := rfl
@[simp] theorem State.clearCtx_cpu : (s.clearCtx).cpu = s.cpu := rfl
@[simp] theorem State.clearCtx_ret : (s.clearCtx).ret = s.ret := rfl
@[simp] theorem State.clearCtx_busData : (s.clearCtx).busData = s.busData := rfl
@[simp] theorem State.clearCtx_seen : (s.clearCtx).seen = s.seen := rfl
@[simp] theorem State.clearCtx_trace : (s.clearCtx).trace = s.trace := rfl
@[simp] theorem State.clearCtx_window : (s.clearCtx).window = s.window := rfl
@[simp] theorem State.clearCtx_answers : (s.clearCtx).answers = s.answers := rfl
@[simp] theorem State.clearCtx_calls : (s.clearCtx).calls = s.calls := rfl
@[simp] theorem State.clearCtx_bus : (s.clearCtx).bus = s.bus := rfl
@[simp] theorem State.clearCtx_stalls : (s.clearCtx).stalls = s.stalls := rfl
@[simp] theorem State.clearCtx_draws : (s.clearCtx).draws = s.draws := rfl

end clearCtx

section setStage

variable (s : State) (w : BitVec 3)

@[simp] theorem State.setStage_cfg : (s.setStage w).cfg = s.cfg := rfl
@[simp] theorem State.setStage_ctx : (s.setStage w).ctx = { s.ctx with stage := w } := rfl
@[simp] theorem State.setStage_setup : (s.setStage w).setup = s.setup := rfl
@[simp] theorem State.setStage_inDispatch : (s.setStage w).inDispatch = s.inDispatch := rfl
@[simp] theorem State.setStage_responded : (s.setStage w).responded = s.responded := rfl
@[simp] theorem State.setStage_dev : (s.setStage w).dev = s.dev := rfl
@[simp] theorem State.setStage_ept : (s.setStage w).ept = s.ept := rfl
@[simp] theorem State.setStage_fatal : (s.setStage w).fatal = s.fatal := rfl
@[simp] theorem State.setStage_inIsr : (s.setStage w).inIsr = s.inIsr := rfl
@[simp] theorem State.setStage_irqMasked : (s.setStage w).irqMasked = s.irqMasked := rfl
@[simp] theorem State.setStage_isrPending : (s.setStage w).isrPending = s.isrPending := rfl
@[simp] theorem State.setStage_isrHandled : (s.setStage w).isrHandled = s.isrHandled := rfl
@[simp] theorem State.setStage_stageDue : (s.setStage w).stageDue = s.stageDue := rfl
@[simp] theorem State.setStage_ev : (s.setStage w).ev = s.ev := rfl
@[simp] theorem State.setStage_driver : (s.setStage w).driver = s.driver := rfl
@[simp] theorem State.setStage_epr : (s.setStage w).epr = s.epr := rfl
@[simp] theorem State.setStage_istr : (s.setStage w).istr = s.istr := rfl
@[simp] theorem State.setStage_cntr : (s.setStage w).cntr = s.cntr := rfl
@[simp] theorem State.setStage_daddr : (s.setStage w).daddr = s.daddr := rfl
@[simp] theorem State.setStage_btable : (s.setStage w).btable = s.btable := rfl
@[simp] theorem State.setStage_pma : (s.setStage w).pma = s.pma := rfl
@[simp] theorem State.setStage_cpu : (s.setStage w).cpu = s.cpu := rfl
@[simp] theorem State.setStage_ret : (s.setStage w).ret = s.ret := rfl
@[simp] theorem State.setStage_busData : (s.setStage w).busData = s.busData := rfl
@[simp] theorem State.setStage_seen : (s.setStage w).seen = s.seen := rfl
@[simp] theorem State.setStage_trace : (s.setStage w).trace = s.trace := rfl
@[simp] theorem State.setStage_window : (s.setStage w).window = s.window := rfl
@[simp] theorem State.setStage_answers : (s.setStage w).answers = s.answers := rfl
@[simp] theorem State.setStage_calls : (s.setStage w).calls = s.calls := rfl
@[simp] theorem State.setStage_bus : (s.setStage w).bus = s.bus := rfl
@[simp] theorem State.setStage_stalls : (s.setStage w).stalls = s.stalls := rfl
@[simp] theorem State.setStage_draws : (s.setStage w).draws = s.draws := rfl

end setStage

section setDev

variable (s : State) (d : DevState)

@[simp] theorem State.setDev_cfg : (s.setDev d).cfg = s.cfg := rfl
@[simp] theorem State.setDev_ctx : (s.setDev d).ctx = s.ctx := rfl
@[simp] theorem State.setDev_setup : (s.setDev d).setup = s.setup := rfl
@[simp] theorem State.setDev_inDispatch : (s.setDev d).inDispatch = s.inDispatch := rfl
@[simp] theorem State.setDev_responded : (s.setDev d).responded = s.responded := rfl
@[simp] theorem State.setDev_dev : (s.setDev d).dev = { s.dev with state := d } := rfl
@[simp] theorem State.setDev_ept : (s.setDev d).ept = s.ept := rfl
@[simp] theorem State.setDev_fatal : (s.setDev d).fatal = s.fatal := rfl
@[simp] theorem State.setDev_inIsr : (s.setDev d).inIsr = s.inIsr := rfl
@[simp] theorem State.setDev_irqMasked : (s.setDev d).irqMasked = s.irqMasked := rfl
@[simp] theorem State.setDev_isrPending : (s.setDev d).isrPending = s.isrPending := rfl
@[simp] theorem State.setDev_isrHandled : (s.setDev d).isrHandled = s.isrHandled := rfl
@[simp] theorem State.setDev_stageDue : (s.setDev d).stageDue = s.stageDue := rfl
@[simp] theorem State.setDev_ev : (s.setDev d).ev = s.ev := rfl
@[simp] theorem State.setDev_driver : (s.setDev d).driver = s.driver := rfl
@[simp] theorem State.setDev_epr : (s.setDev d).epr = s.epr := rfl
@[simp] theorem State.setDev_istr : (s.setDev d).istr = s.istr := rfl
@[simp] theorem State.setDev_cntr : (s.setDev d).cntr = s.cntr := rfl
@[simp] theorem State.setDev_daddr : (s.setDev d).daddr = s.daddr := rfl
@[simp] theorem State.setDev_btable : (s.setDev d).btable = s.btable := rfl
@[simp] theorem State.setDev_pma : (s.setDev d).pma = s.pma := rfl
@[simp] theorem State.setDev_cpu : (s.setDev d).cpu = s.cpu := rfl
@[simp] theorem State.setDev_ret : (s.setDev d).ret = s.ret := rfl
@[simp] theorem State.setDev_busData : (s.setDev d).busData = s.busData := rfl
@[simp] theorem State.setDev_seen : (s.setDev d).seen = s.seen := rfl
@[simp] theorem State.setDev_trace : (s.setDev d).trace = s.trace := rfl
@[simp] theorem State.setDev_window : (s.setDev d).window = s.window := rfl
@[simp] theorem State.setDev_answers : (s.setDev d).answers = s.answers := rfl
@[simp] theorem State.setDev_calls : (s.setDev d).calls = s.calls := rfl
@[simp] theorem State.setDev_bus : (s.setDev d).bus = s.bus := rfl
@[simp] theorem State.setDev_stalls : (s.setDev d).stalls = s.stalls := rfl
@[simp] theorem State.setDev_draws : (s.setDev d).draws = s.draws := rfl

end setDev

section initialised

variable (s : State)

@[simp] theorem State.initialised_cfg : (s.initialised).cfg = s.cfg := rfl
@[simp] theorem State.initialised_ctx : (s.initialised).ctx = Ctx.cleared := rfl
@[simp] theorem State.initialised_setup : (s.initialised).setup = s.setup := rfl
@[simp] theorem State.initialised_inDispatch : (s.initialised).inDispatch = s.inDispatch := rfl
@[simp] theorem State.initialised_responded : (s.initialised).responded = s.responded := rfl
@[simp] theorem State.initialised_dev : (s.initialised).dev = { state := .default, previous := .default, addrPending := false, pendingAddr := 0 } := rfl
@[simp] theorem State.initialised_ept : (s.initialised).ept = Vector.replicate 8 EptEntry.unregistered := rfl
@[simp] theorem State.initialised_fatal : (s.initialised).fatal = s.fatal := rfl
@[simp] theorem State.initialised_inIsr : (s.initialised).inIsr = s.inIsr := rfl
@[simp] theorem State.initialised_irqMasked : (s.initialised).irqMasked = s.irqMasked := rfl
@[simp] theorem State.initialised_isrPending : (s.initialised).isrPending = s.isrPending := rfl
@[simp] theorem State.initialised_isrHandled : (s.initialised).isrHandled = s.isrHandled := rfl
@[simp] theorem State.initialised_stageDue : (s.initialised).stageDue = s.stageDue := rfl
@[simp] theorem State.initialised_ev : (s.initialised).ev = s.ev := rfl
@[simp] theorem State.initialised_driver : (s.initialised).driver = s.driver := rfl
@[simp] theorem State.initialised_epr : (s.initialised).epr = s.epr := rfl
@[simp] theorem State.initialised_istr : (s.initialised).istr = s.istr := rfl
@[simp] theorem State.initialised_cntr : (s.initialised).cntr = s.cntr := rfl
@[simp] theorem State.initialised_daddr : (s.initialised).daddr = s.daddr := rfl
@[simp] theorem State.initialised_btable : (s.initialised).btable = s.btable := rfl
@[simp] theorem State.initialised_pma : (s.initialised).pma = s.pma := rfl
@[simp] theorem State.initialised_cpu : (s.initialised).cpu = s.cpu := rfl
@[simp] theorem State.initialised_ret : (s.initialised).ret = s.ret := rfl
@[simp] theorem State.initialised_busData : (s.initialised).busData = s.busData := rfl
@[simp] theorem State.initialised_seen : (s.initialised).seen = s.seen := rfl
@[simp] theorem State.initialised_trace : (s.initialised).trace = s.trace := rfl
@[simp] theorem State.initialised_window : (s.initialised).window = s.window := rfl
@[simp] theorem State.initialised_answers : (s.initialised).answers = s.answers := rfl
@[simp] theorem State.initialised_calls : (s.initialised).calls = s.calls := rfl
@[simp] theorem State.initialised_bus : (s.initialised).bus = s.bus := rfl
@[simp] theorem State.initialised_stalls : (s.initialised).stalls = s.stalls := rfl
@[simp] theorem State.initialised_draws : (s.initialised).draws = s.draws := rfl

end initialised

/-- An endpoint register after a write to one: the written one changes, every other stands. -/
theorem State.setEpr_get (s : State) (n m : Fin 8) (r : Half) :
    (s.setEpr n r).epr[m] = if n = m then r else s.epr[m] := by
  simp only [State.setEpr, Fin.getElem_fin, Vector.getElem_set, Fin.ext_iff]

@[simp] theorem State.setEpr_get_same (s : State) (n : Fin 8) (r : Half) : (s.setEpr n r).epr[n] = r := by
  rw [State.setEpr_get, if_pos rfl]

/-- A table entry after a write to one. -/
theorem State.setEpt_get (s : State) (n m : Fin 8) (e : EptEntry) :
    (s.setEpt n e).ept[m] = if n = m then e else s.ept[m] := by
  simp only [State.setEpt, Fin.getElem_fin, Vector.getElem_set, Fin.ext_iff]

@[simp] theorem State.setEpr_setEpr (s : State) (n : Fin 8) (r q : Half) :
    (s.setEpr n r).setEpr n q = s.setEpr n q := by
  simp only [State.setEpr, Vector.set_set]

end Sys2Proof.Machine
end

