-- ==== Sys2Proof/Laws/Ops.lean ====
section
/-! SUPPORT. The computations: how they run in sequence, and what each atomic step answers when no SIE step falls before it
(the case `r = snap` of R154).  A later proof cites these and unfolds no atomic step. -/

namespace Sys2Proof.Machine

variable {α β : Type}

/-! ## Sequencing -/

@[simp] theorem bind_apply (m : M α) (f : α → M β) (s : State) :
    (m >>= f) s = match m s with
      | .ok (a, t) => f a t
      | .error e => .error e := by
  show StateT.bind m f s = _
  unfold StateT.bind
  cases m s with
  | error e => rfl
  | ok p => rfl

@[simp] theorem pure_apply (a : α) (s : State) : (pure a : M α) s = .ok (a, s) := rfl

@[simp] theorem map_apply (f : α → β) (m : M α) (s : State) :
    (f <$> m) s = match m s with
      | .ok (a, t) => .ok (f a, t)
      | .error e => .error e := by
  show StateT.map f m s = _
  unfold StateT.map
  cases m s with
  | error e => rfl
  | ok p => rfl

@[simp] theorem getS_apply (s : State) : getS s = .ok (s, s) := rfl

@[simp] theorem upd_apply (f : State → State) (s : State) : upd f s = .ok ((), f s) := rfl

@[simp] theorem fault_apply (f : Fault) (s : State) : (fault f : M α) s = .error (.fault f) := rfl

@[simp] theorem refuse_apply (r : Refusal) (s : State) : (refuse r : M α) s = .error (.refused r) := rfl

@[simp] theorem raiseFatal_apply (c : FatalCause) (s : State) :
    (raiseFatal c : M α) s = .error (.halt { s with fatal := some c }) := rfl

@[simp] theorem draw_apply (s : State) : draw s = .ok (s.draws, { s with draws := s.draws + 1 }) := rfl

theorem ite_run (c : Prop) [Decidable c] (m k : M α) (s : State) :
    (if c then m else k) s = if c then m s else k s := by
  split <;> rfl

/-- A computation whose first part answers goes on from there. -/
theorem bind_ok {m : M α} {f : α → M β} {s t : State} {a : α} (h : m s = .ok (a, t)) : (m >>= f) s = f a t := by
  rw [bind_apply, h]

/-- A computation whose first part stops stops so. -/
theorem bind_error {m : M α} {f : α → M β} {s : State} {e : Stop} (h : m s = .error e) :
    (m >>= f) s = .error e := by
  rw [bind_apply, h]

theorem outcome_ok {m : M Unit} {s t : State} (h : m s = .ok ((), t)) : outcome m s = .next t := by
  unfold outcome
  rw [h]

theorem outcome_halt {m : M Unit} {s t : State} (h : m s = .error (.halt t)) : outcome m s = .next t := by
  unfold outcome
  rw [h]

theorem outcome_fault {m : M Unit} {s : State} {f : Fault} (h : m s = .error (.fault f)) :
    outcome m s = .fault f := by
  unfold outcome
  rw [h]

theorem outcome_refused {m : M Unit} {s : State} {r : Refusal} (h : m s = .error (.refused r)) :
    outcome m s = .refused r := by
  unfold outcome
  rw [h]

/-! ## Atomic steps with no SIE step before them -/

section quiet

variable {s : State} (h : s.window = [])

include h

theorem tick_quiet : tick s = .ok ((), s) := by
  simp [tick, h]

theorem regRead_epr_quiet (n : Fin 8) : regRead (.epr n) s = .ok (s.epr[n], s) := by
  simp [regRead, tick_quiet h]

theorem regRead_istr_quiet : regRead .istr s = .ok (istrRead s, { s with draws := s.draws + 1 }) := by
  simp [regRead, tick_quiet h]

theorem regWrite_quiet (r : Reg) (w : Half) : regWrite r w s = .ok ((), s.writeReg r w) := by
  simp [regWrite, tick_quiet h]

theorem pmaRead16_quiet {k : Nat} (hk : 2 * k + 2 ≤ s.cfg.pmaBytes) : pmaRead16 k s = .ok (s.pma.word k, s) := by
  simp [pmaRead16, tick_quiet h, hk]

theorem pmaWrite16_quiet {k : Nat} (v : Half) (hk : 2 * k + 2 ≤ s.cfg.pmaBytes) (ho : sieOwns s k = false) :
    pmaWrite16 k v s = .ok ((), { s with pma := s.pma.writeWord k v }) := by
  simp [pmaWrite16, tick_quiet h, hk, ho]

theorem pmaWrite16_owned {k : Nat} (v : Half) (hk : 2 * k + 2 ≤ s.cfg.pmaBytes) (ho : sieOwns s k = true) :
    pmaWrite16 k v s = .error (.fault .ownership) := by
  simp [pmaWrite16, tick_quiet h, hk, ho]

theorem bdRead_quiet {n : Fin 8} {f : BdField} (hk : 2 * bdIndex s.cfg n f + 2 ≤ s.cfg.pmaBytes) :
    bdRead n f s = .ok (bdWord s n f, s) := by
  simp [bdRead, pmaRead16_quiet h hk, bdWord]

theorem bdWrite_quiet {n : Fin 8} {f : BdField} (v : Half) (hk : 2 * bdIndex s.cfg n f + 2 ≤ s.cfg.pmaBytes)
    (ho : sieOwns s (bdIndex s.cfg n f) = false) :
    bdWrite n f v s = .ok ((), { s with pma := s.pma.writeWord (bdIndex s.cfg n f) v }) := by
  simp [bdWrite, pmaWrite16_quiet h v hk ho]

theorem memRead_quiet {a : Addr} (ha : s.cfg.mapped a = true) : memRead a s = .ok (s.cpu.read a.toNat, s) := by
  simp [memRead, tick_quiet h, ha]

theorem memWrite_quiet {a : Addr} (v : Byte) (ha : s.cfg.mapped a = true) :
    memWrite a v s = .ok ((), { s with cpu := s.cpu.write a.toNat v }) := by
  simp [memWrite, tick_quiet h, ha]

/-- The read-modify-write unit with the register unchanged between the snapshot and the write (R154). -/
theorem eprRmw_quiet (n : Fin 8) (word : Half → Option Half) :
    eprRmw n word s = .ok (s.epr[n],
      match word s.epr[n] with
      | none => s
      | some w => s.setEpr n (eprWrite s.epr[n] w)) := by
  simp only [eprRmw, bind_apply, regRead_epr_quiet h]
  cases word s.epr[n] with
  | none => rfl
  | some w => simp [regWrite_quiet h, State.writeReg]

end quiet

/-! ## Checks -/

theorem requireWriter_ok {s : State} (h : s.inIsr = true ∨ s.irqMasked = true) : requireWriter s = .ok ((), s) := by
  simp [requireWriter, h]

theorem requireWriter_fault {s : State} (h1 : s.inIsr = false) (h2 : s.irqMasked = false) :
    requireWriter s = .error (.fault .foregroundWrite) := by
  simp [requireWriter, h1, h2]

theorem requireDispatch_ok {s : State} (h : s.inDispatch = true ∧ s.responded = false) :
    requireDispatch s = .ok ((), { s with responded := true }) := by
  simp [requireDispatch, h.1, h.2]

theorem requireDispatch_fault {s : State} (h : s.inDispatch = false ∨ s.responded = true) :
    requireDispatch s = .error (.fault .prepareContext) := by
  rcases h with h | h <;> simp [requireDispatch, h]

theorem readSetup_ok {s : State} {p : SetupPacket} (h : s.setup = some p) (hd : s.inDispatch = true) :
    readSetup s = .ok (p, s) := by
  simp [readSetup, h, hd]

theorem epIndex_ok {n : Byte} (h : n.toNat < 8) (s : State) : epIndex n s = .ok (⟨n.toNat, h⟩, s) := by
  simp [epIndex, h]

theorem epIndex_fault {n : Byte} (h : ¬ n.toNat < 8) (s : State) : epIndex n s = .error (.fault .badEp) := by
  simp [epIndex, h]

@[simp] theorem clearCtx_apply (s : State) : clearCtx s = .ok ((), s.clearCtx) := rfl

end Sys2Proof.Machine
end

