-- ==== Sys2Proof/Laws/Registers.lean ====
section
/-! SUPPORT. The endpoint register after one read-modify-write whose snapshot is still its value: the three-term formula
(R153) through the write rule (R152), once in general and once for each word that an operation writes. -/

namespace Sys2Proof.Machine

/-- Toggle fields take their desired value, plain bits theirs, the rest stays but for the cleared flags. -/
theorem eprWrite_rmwWord_same {r f d v c : Half} (hf : f &&& ~~~ toggleMask = 0) :
    eprWrite r (rmwWord r f d v c) =
      (v &&& plainMask) ||| (d &&& f) ||| (r &&& toggleMask &&& ~~~ f) ||| (r &&& ctrMask &&& ~~~ c) ||| (r &&& setupBit) := by
  apply BitVec.eq_of_getLsbD_eq
  intro i hi
  have hfi : (f &&& ~~~ toggleMask).getLsbD i = false := by rw [hf]; simp
  simp only [eprWrite, rmwWord, BitVec.getLsbD_or, BitVec.getLsbD_and, BitVec.getLsbD_xor, BitVec.getLsbD_not, hi,
    decide_true, Bool.true_and] at hfi ⊢
  generalize f.getLsbD i = fb at hfi ⊢
  generalize r.getLsbD i = rb
  generalize d.getLsbD i = db
  generalize v.getLsbD i = vb
  generalize c.getLsbD i = cb
  revert fb rb db vb cb
  interval_cases i <;> decide

/-- A word that touches one toggle field and keeps the plain bits and both flags. -/
theorem eprWrite_field {r f d : Half} (hf : f &&& ~~~ toggleMask = 0) :
    eprWrite r (rmwWord r f d r 0) = putBits r f d := by
  rw [eprWrite_rmwWord_same hf]
  apply BitVec.eq_of_getLsbD_eq
  intro i hi
  have hfi : (f &&& ~~~ toggleMask).getLsbD i = false := by rw [hf]; simp
  simp only [putBits, BitVec.getLsbD_or, BitVec.getLsbD_and, BitVec.getLsbD_not, hi,
    decide_true, Bool.true_and] at hfi ⊢
  generalize f.getLsbD i = fb at hfi ⊢
  generalize r.getLsbD i = rb
  generalize d.getLsbD i = db
  revert fb rb db
  interval_cases i <;> decide

theorem eprWrite_statusWord (r : Half) (d : Dir) (st : Stat) :
    eprWrite r (statusWord r d st) = putBits r (statMask d) (statAt d st) :=
  eprWrite_field (by cases d <;> decide)

theorem eprWrite_clearStall (r : Half) (d : Dir) (v : Half) :
    eprWrite r (rmwWord r (statMask d ||| dtogMask d) v r 0) = putBits r (statMask d ||| dtogMask d) v :=
  eprWrite_field (by cases d <;> decide)

theorem eprWrite_setKind (r : Half) : eprWrite r (rmwWord r 0 0 (r ||| kindBit) 0) = r ||| kindBit := by
  rw [eprWrite_rmwWord_same (by decide)]
  apply BitVec.eq_of_getLsbD_eq
  intro i hi
  simp only [BitVec.getLsbD_or, BitVec.getLsbD_and, BitVec.getLsbD_not, hi, decide_true, Bool.true_and]
  generalize r.getLsbD i = rb
  revert rb
  interval_cases i <;> decide

theorem eprWrite_clearKind (r : Half) : eprWrite r (rmwWord r 0 0 (r &&& ~~~ kindBit) 0) = r &&& ~~~ kindBit := by
  rw [eprWrite_rmwWord_same (by decide)]
  apply BitVec.eq_of_getLsbD_eq
  intro i hi
  simp only [BitVec.getLsbD_or, BitVec.getLsbD_and, BitVec.getLsbD_not, hi, decide_true, Bool.true_and]
  generalize r.getLsbD i = rb
  revert rb
  interval_cases i <;> decide

theorem eprWrite_clearConfiguration (r : Half) : eprWrite r (rmwWord r toggleMask 0 0 ctrMask) = r &&& setupBit := by
  rw [eprWrite_rmwWord_same (by decide)]
  apply BitVec.eq_of_getLsbD_eq
  intro i hi
  simp only [BitVec.getLsbD_or, BitVec.getLsbD_and, BitVec.getLsbD_not, hi, decide_true, Bool.true_and]
  generalize r.getLsbD i = rb
  revert rb
  interval_cases i <;> decide

theorem eprWrite_clearComplete (r : Half) (d : Dir) : eprWrite r (rmwWord r 0 0 r (ctrBit d)) = r &&& ~~~ ctrBit d := by
  rw [eprWrite_rmwWord_same (by decide)]
  apply BitVec.eq_of_getLsbD_eq
  intro i hi
  simp only [BitVec.getLsbD_or, BitVec.getLsbD_and, BitVec.getLsbD_not, hi, decide_true, Bool.true_and]
  generalize r.getLsbD i = rb
  revert rb
  cases d <;> interval_cases i <;> decide

theorem eprWrite_configured (r : Half) (ty : EpType) (kind : Bool) (n : Fin 8) (rx tx : Stat) :
    eprWrite r (rmwWord r toggleMask (statAt .dirOut rx ||| statAt .dirIn tx) (plainBits ty kind n) 0) =
      configured r ty kind n rx tx := by
  have hs : (statAt .dirOut rx ||| statAt .dirIn tx) &&& toggleMask = statAt .dirOut rx ||| statAt .dirIn tx := by
    cases rx <;> cases tx <;> decide
  have hp : plainBits ty kind n &&& plainMask = plainBits ty kind n := by
    cases ty <;> cases kind <;> revert n <;> decide
  have hr : r &&& ctrMask ||| r &&& setupBit = r &&& 0x8880 := by
    rw [← BitVec.and_or_distrib_left]
    rfl
  rw [eprWrite_rmwWord_same (by decide), hs, hp, configured]
  have h1 : r &&& toggleMask &&& ~~~ toggleMask = 0 := by
    rw [BitVec.and_assoc]
    simp
  have h2 : r &&& ctrMask &&& ~~~ (0 : Half) = r &&& ctrMask := by
    rw [BitVec.and_assoc]
    rfl
  rw [h1, h2, ← hr]
  ac_nf

end Sys2Proof.Machine
end

