-- ==== Sys2Proof/Laws/Quiet.lean ====
section
/-! SUPPORT. What each shared operation answers when no SIE step falls inside it: one equation per operation, its result the
state that Safety.lean names.  A statement about an instruction chains these and unfolds no operation. -/

namespace Sys2Proof.Machine

variable {s : State}

/-! ## Words in turn -/

theorem Memory.writeWords_append (m : Memory) (l k : List (Nat × Half)) :
    m.writeWords (l ++ k) = (m.writeWords l).writeWords k := by
  induction l generalizing m with
  | nil => rfl
  | cons w l ih => exact ih (m.writeWord w.1 w.2)

theorem State.putWords_append (l k : List (Nat × Half)) : s.putWords (l ++ k) = (s.putWords l).putWords k := by
  simp [State.putWords, Memory.writeWords_append]

theorem wordsFree_cons {k : Nat} {v : Half} {ws : List (Nat × Half)} :
    wordsFree s ((k, v) :: ws) = true ↔
      2 * k + 2 ≤ s.cfg.pmaBytes ∧ sieOwns s k = false ∧ wordsFree (s.putWords [(k, v)]) ws = true := by
  simp [wordsFree, and_assoc]

theorem wordsFree_append {l k : List (Nat × Half)} :
    wordsFree s (l ++ k) = true ↔ wordsFree s l = true ∧ wordsFree (s.putWords l) k = true := by
  induction l generalizing s with
  | nil => simp [wordsFree, State.putWords, Memory.writeWords]
  | cons w l ih =>
    obtain ⟨i, v⟩ := w
    rw [List.cons_append, wordsFree_cons, wordsFree_cons, ih, and_assoc, and_assoc]
    rfl

/-- Ownership looks at the endpoint registers, the packet memory and the table's place alone (R72). -/
theorem sieOwns_congr {t : State} (hc : t.cfg = s.cfg) (hr : t.epr = s.epr) (hp : t.pma = s.pma) (k : Nat) :
    sieOwns t k = sieOwns s k := by
  unfold sieOwns anyEp ownsThrough bdWord
  rw [hc, hr, hp]

theorem wordsFree_congr {t : State} (hc : t.cfg = s.cfg) (hr : t.epr = s.epr) (hp : t.pma = s.pma)
    (ws : List (Nat × Half)) : wordsFree t ws = wordsFree s ws := by
  induction ws generalizing s t with
  | nil => rfl
  | cons w ws ih =>
    obtain ⟨k, v⟩ := w
    unfold wordsFree
    rw [hc, sieOwns_congr hc hr hp, ih (t := t.putWords [(k, v)]) (s := s.putWords [(k, v)]) hc hr]
    simp [State.putWords, hp]

section quiet

variable (h : Quiet s)

include h

/-- A packet-memory write of a free word (R10, R67, R72). -/
theorem pmaWrite16_free {k : Nat} {v : Half} (hf : wordsFree s [(k, v)] = true) :
    pmaWrite16 k v s = .ok ((), s.putWords [(k, v)]) :=
  pmaWrite16_quiet h v (wordsFree_cons.1 hf).1 (wordsFree_cons.1 hf).2.1

/-- A descriptor write of a free field (R45). -/
theorem bdWrite_free {n : Fin 8} {f : BdField} {v : Half} (hf : wordsFree s (bdWords s.cfg n [(f, v)]) = true) :
    bdWrite n f v s = .ok ((), s.putWords (bdWords s.cfg n [(f, v)])) :=
  bdWrite_quiet h v (wordsFree_cons.1 hf).1 (wordsFree_cons.1 hf).2.1

/-- The first of several descriptor writes, and that the rest stay free after it. -/
theorem bdWrite_cons {n : Fin 8} {f : BdField} {v : Half} {fs : List (BdField × Half)}
    (hf : wordsFree s (bdWords s.cfg n ((f, v) :: fs)) = true) :
    bdWrite n f v s = .ok ((), s.putWords (bdWords s.cfg n [(f, v)]))
      ∧ wordsFree (s.putWords (bdWords s.cfg n [(f, v)])) (bdWords s.cfg n fs) = true :=
  ⟨bdWrite_quiet h v (wordsFree_cons.1 hf).1 (wordsFree_cons.1 hf).2.1, (wordsFree_cons.1 hf).2.2⟩

end quiet

/-! ## Endpoint registers -/

@[simp] theorem State.setEpr_self (n : Fin 8) : s.setEpr n s.epr[n] = s := by
  simp [State.setEpr]

section quiet

variable (h : Quiet s)

include h

/-- A read-modify-write that always writes (R151). -/
theorem rmw_some {n : Fin 8} {word : Half → Half} :
    eprRmw n (fun snap => some (word snap)) s = .ok (s.epr[n], s.setEpr n (eprWrite s.epr[n] (word s.epr[n]))) :=
  eprRmw_quiet h n _

theorem setStatusAt_quiet (n : Fin 8) (d : Dir) (st : Stat) :
    setStatusAt n d st s = .ok ((), s.setEpr n (putBits s.epr[n] (statMask d) (statAt d st))) := by
  simp only [setStatusAt, bind_apply, rmw_some h, pure_apply, eprWrite_statusWord]

theorem setStallAt_quiet (n : Fin 8) (d : Dir) :
    setStallAt n d s = .ok ((), s.setEpr n (stalledDir s.epr[n] d)) := by
  simp only [setStallAt, bind_apply, eprRmw_quiet h, pure_apply]
  unfold stalledDir
  by_cases hd : statOf d s.epr[n] = .disabled
  · rw [if_pos hd, if_pos hd, State.setEpr_self]
  · rw [if_neg hd, if_neg hd]
    dsimp only
    rw [eprWrite_statusWord]

theorem setKindAt_quiet (n : Fin 8) : setKindAt n s = .ok ((), s.setEpr n (s.epr[n] ||| kindBit)) := by
  simp only [setKindAt, bind_apply, rmw_some h, pure_apply, eprWrite_setKind]

theorem clearKindAt_quiet (n : Fin 8) : clearKindAt n s = .ok ((), s.setEpr n (s.epr[n] &&& ~~~ kindBit)) := by
  simp only [clearKindAt, bind_apply, rmw_some h, pure_apply, eprWrite_clearKind]

theorem clearConfigurationAt_quiet (n : Fin 8) :
    clearConfigurationAt n s = .ok ((), s.setEpr n (s.epr[n] &&& setupBit)) := by
  simp only [clearConfigurationAt, bind_apply, rmw_some h, pure_apply, eprWrite_clearConfiguration]

theorem configureRegister_quiet (n : Fin 8) (ty : EpType) (k : Bool) (rx tx : Stat) :
    configureRegister n ty k rx tx s = .ok ((), s.setEpr n (configured s.epr[n] ty k n rx tx)) := by
  simp only [configureRegister, bind_apply, rmw_some h, pure_apply, eprWrite_configured]

theorem clearCompleteAt_quiet (n : Fin 8) (d : Dir) :
    clearCompleteAt n d s = .ok (s.epr[n], s.setEpr n (s.epr[n] &&& ~~~ ctrBit d)) := by
  simp only [clearCompleteAt, rmw_some h, eprWrite_clearComplete]

end quiet

/-! ## The byte packer (R140, R141) -/

theorem pmaCheck_ok {o c : Half} (ho : o.toNat % 2 = 0) (hb : c = 0 ∨ o.toNat + c.toNat ≤ s.cfg.pmaBytes) :
    pmaCheck o c s = .ok ((), s) := by
  have h0 : o.getLsbD 0 = false := by
    rw [BitVec.getLsbD, Nat.testBit_zero]
    simp [ho]
  have h1 : ¬ (c ≠ 0 ∧ s.cfg.pmaBytes < o.toNat + c.toNat) := by
    rintro ⟨h2, h3⟩
    rcases hb with hb | hb
    · exact h2 hb
    · omega
  unfold pmaCheck
  rw [bind_apply, getS_apply]
  dsimp only
  rw [h0, if_neg (by decide), if_neg h1]
  rfl

/-- The whole words of a `pma_write`. -/
def wordPairs (m : Memory) (src : Addr) (k n : Nat) : List (Nat × Half) :=
  (List.range n).map fun i => (k + i, le16 (m.read (src + BitVec.ofNat 32 (2 * i)).toNat)
    (m.read (src + BitVec.ofNat 32 (2 * i) + 1).toNat))

theorem wordPairs_succ (m : Memory) (src : Addr) (k n : Nat) :
    wordPairs m src k (n + 1) =
      (k, le16 (m.read src.toNat) (m.read (src + 1).toNat)) :: wordPairs m (src + 2) (k + 1) n := by
  unfold wordPairs
  rw [List.range_succ_eq_map, List.map_cons, List.map_map]
  congr 1
  · simp
  · apply List.map_congr_left
    intro i _
    have hb : src + BitVec.ofNat 32 (2 * (i + 1)) = src + 2 + BitVec.ofNat 32 (2 * i) := by
      rw [show 2 * (i + 1) = 2 + 2 * i by omega, BitVec.ofNat_add, BitVec.add_assoc]
      rfl
    simp only [Function.comp, Nat.succ_eq_add_one]
    rw [hb, show k + (i + 1) = k + 1 + i by omega]

theorem pmaWriteWords_quiet {n : Nat} : ∀ {s : State} {src : Addr} {k : Nat}, Quiet s →
    mappedFrom s.cfg src (2 * n) = true → wordsFree s (wordPairs s.cpu src k n) = true →
    pmaWriteWords src k n s = .ok ((), s.putWords (wordPairs s.cpu src k n)) := by
  induction n with
  | zero => intro s src k _ _ _; rfl
  | succ n ih =>
    intro s src k h hm hw
    rw [wordPairs_succ] at hw ⊢
    obtain ⟨hb, ho, hr⟩ := wordsFree_cons.1 hw
    have hall := List.all_eq_true.1 hm
    have h0 : s.cfg.mapped src = true := by
      simpa using hall 0 (by simp)
    have h1 : s.cfg.mapped (src + 1) = true := by
      simpa using hall 1 (by simp; omega)
    have hm2 : mappedFrom s.cfg (src + 2) (2 * n) = true := by
      apply List.all_eq_true.2
      intro i hi
      have := hall (i + 2) (by simp at hi ⊢; omega)
      rw [BitVec.ofNat_add, BitVec.add_comm (BitVec.ofNat 32 i), ← BitVec.add_assoc] at this
      exact this
    unfold pmaWriteWords
    rw [bind_apply, memRead_quiet h h0]
    dsimp only
    rw [bind_apply, memRead_quiet h h1]
    dsimp only
    rw [bind_apply, pmaWrite16_quiet h _ hb ho]
    dsimp only
    exact ih (s := s.putWords [(k, le16 (s.cpu.read src.toNat) (s.cpu.read (src + 1).toNat))]) h hm2 hr

theorem packedWords_eq (s : State) (src : Addr) (o c : Half) :
    packedWords s src o c = wordPairs s.cpu src (o.toNat / 2) (c.toNat / 2) ++
      (if c.getLsbD 0 then
        [(o.toNat / 2 + c.toNat / 2, le16 (s.cpu.read (src + c.setWidth 32 - 1).toNat) (Config.freeByte s.draws))]
      else []) := rfl

theorem odd_iff (c : Half) : c.getLsbD 0 = decide (c.toNat % 2 = 1) := by
  rw [BitVec.getLsbD, Nat.testBit_zero]

theorem add_tail_sub {a : Addr} {c : Half} (h : c.toNat % 2 = 1) :
    a + c.setWidth 32 - 1 = a + BitVec.ofNat 32 (c.toNat - 1) := by
  apply BitVec.eq_of_toNat_eq
  have := c.isLt
  have h1 : (1 : Addr).toNat = 1 := rfl
  simp only [h1, BitVec.toNat_add, BitVec.toNat_ofNat, BitVec.toNat_sub, BitVec.toNat_setWidth]
  omega

/-- `pma_write` (R140). -/
theorem pmaWrite_quiet (h : Quiet s) {src : Addr} {o c : Half} (hw : pmaWritable s src o c = true) :
    pmaWrite src o c s = .ok ((), s.packed src o c) := by
  simp only [pmaWritable, Bool.and_eq_true, Bool.or_eq_true, decide_eq_true_eq] at hw
  obtain ⟨⟨⟨ho, hb⟩, hm⟩, hf⟩ := hw
  rw [packedWords_eq, wordsFree_append] at hf
  obtain ⟨hf1, hf2⟩ := hf
  have hm2 : mappedFrom s.cfg src (2 * (c.toNat / 2)) = true := by
    apply List.all_eq_true.2
    intro i hi
    exact List.all_eq_true.1 hm i (by simp at hi ⊢; omega)
  unfold pmaWrite
  rw [bind_apply, pmaCheck_ok ho hb]
  dsimp only
  rw [bind_apply, pmaWriteWords_quiet h hm2 hf1]
  dsimp only
  by_cases hc : c.getLsbD 0 = true
  · have hodd : c.toNat % 2 = 1 := by rwa [odd_iff, decide_eq_true_eq] at hc
    have ha : s.cfg.mapped (src + c.setWidth 32 - 1) = true := by
      have := List.all_eq_true.1 hm (c.toNat - 1) (by simp; omega)
      rwa [← add_tail_sub hodd] at this
    rw [if_pos hc] at hf2
    rw [if_pos hc]
    have hf3 := wordsFree_cons.1 hf2
    refine Eq.trans (bind_ok (memRead_quiet (by exact h) ha)) ?_
    refine Eq.trans (bind_ok (draw_apply _)) ?_
    refine Eq.trans (pmaWrite16_quiet (by exact h) _ hf3.1 ((sieOwns_congr
      (s := s.putWords (wordPairs s.cpu src (o.toNat / 2) (c.toNat / 2))) rfl rfl rfl _).trans hf3.2.1)) ?_
    simp only [State.packed, packedWords_eq, hc, if_true, Memory.writeWords_append, hodd]
    rfl
  · have hodd : c.toNat % 2 = 0 := by
      have : ¬ c.toNat % 2 = 1 := by rwa [odd_iff, decide_eq_true_eq] at hc
      omega
    rw [if_neg hc]
    simp only [State.packed, packedWords_eq, hc, hodd]
    simp [State.putWords, pure_apply]

theorem Memory.writeFrom_append (m : Memory) (a : Addr) (l k : List Byte) :
    m.writeFrom a (l ++ k) = (m.writeFrom a l).writeFrom (a + BitVec.ofNat 32 l.length) k := by
  induction l generalizing m a with
  | nil => simp [Memory.writeFrom]
  | cons b l ih =>
    rw [List.cons_append]
    show (m.write a.toNat b).writeFrom (a + 1) (l ++ k) = ((m.write a.toNat b).writeFrom (a + 1) l).writeFrom _ k
    rw [ih, List.length_cons, Nat.add_comm l.length 1, BitVec.ofNat_add, BitVec.add_assoc]
    rfl

theorem Memory.bytes_add (m : Memory) (a n k : Nat) : m.bytes a (n + k) = m.bytes a n ++ m.bytes (a + n) k := by
  induction n generalizing a with
  | zero => simp [Memory.bytes]
  | succ n ih =>
    rw [Nat.succ_add]
    show m.read a :: m.bytes (a + 1) (n + k) = (m.read a :: m.bytes (a + 1) n) ++ _
    rw [ih, List.cons_append, show a + 1 + n = a + (n + 1) by omega]

theorem pmaReadWords_quiet {n : Nat} : ∀ {s : State} {dst : Addr} {k : Nat}, Quiet s →
    2 * (k + n) ≤ s.cfg.pmaBytes → mappedFrom s.cfg dst (2 * n) = true →
    pmaReadWords dst k n s = .ok ((), { s with cpu := s.cpu.writeFrom dst (s.pma.bytes (2 * k) (2 * n)) }) := by
  induction n with
  | zero => intro s dst k _ _ _; rfl
  | succ n ih =>
    intro s dst k h hb hm
    have hall := List.all_eq_true.1 hm
    have h0 : s.cfg.mapped dst = true := by
      simpa using hall 0 (by simp)
    have h1 : s.cfg.mapped (dst + 1) = true := by
      simpa using hall 1 (by simp; omega)
    have hm2 : mappedFrom s.cfg (dst + 2) (2 * n) = true := by
      apply List.all_eq_true.2
      intro i hi
      have := hall (i + 2) (by simp at hi ⊢; omega)
      rw [BitVec.ofNat_add, BitVec.add_comm (BitVec.ofNat 32 i), ← BitVec.add_assoc] at this
      exact this
    unfold pmaReadWords
    refine Eq.trans (bind_ok (pmaRead16_quiet h (by omega))) ?_
    refine Eq.trans (bind_ok (memWrite_quiet h _ h0)) ?_
    refine Eq.trans (bind_ok (memWrite_quiet (by exact h) _ h1)) ?_
    refine Eq.trans (ih (by exact h) (by show 2 * (k + 1 + n) ≤ s.cfg.pmaBytes; omega) hm2) ?_
    have e : s.pma.bytes (2 * k) (2 * (n + 1)) =
        byteAt (s.pma.word k) 0 :: byteAt (s.pma.word k) 1 :: s.pma.bytes (2 * (k + 1)) (2 * n) := by
      rw [show 2 * (n + 1) = 2 * n + 1 + 1 by omega]
      simp [Memory.bytes, Memory.word, show 2 * k + 1 + 1 = 2 * (k + 1) by omega]
    rw [e]
    show _ = Except.ok ((), { s with cpu := ((s.cpu.write dst.toNat _).write (dst + 1).toNat _).writeFrom (dst + 1 + 1) _ })
    rw [show dst + 1 + 1 = dst + 2 by rw [BitVec.add_assoc]; rfl]

/-- `pma_read` (R141). -/
theorem pmaRead_quiet (h : Quiet s) {o : Half} {dst : Addr} {c : Half} (hw : pmaReadable s o dst c = true) :
    pmaRead o dst c s = .ok ((), s.unpacked o dst c) := by
  simp only [pmaReadable, Bool.and_eq_true, Bool.or_eq_true, decide_eq_true_eq] at hw
  obtain ⟨⟨⟨hp, ho⟩, hb⟩, hm⟩ := hw
  have hb2 : c.toNat = 0 ∨ o.toNat + c.toNat ≤ s.cfg.pmaBytes := by
    rcases hb with hb | hb
    · left; rw [hb]; rfl
    · exact .inr hb
  have hm2 : mappedFrom s.cfg dst (2 * (c.toNat / 2)) = true := by
    apply List.all_eq_true.2
    intro i hi
    exact List.all_eq_true.1 hm i (by simp at hi ⊢; omega)
  have he : 2 * (o.toNat / 2) = o.toNat := by omega
  unfold pmaRead
  rw [bind_apply, pmaCheck_ok ho hb]
  dsimp only
  have hk : 2 * (o.toNat / 2 + c.toNat / 2) ≤ s.cfg.pmaBytes ∨ c.toNat = 0 := by omega
  rcases hk with hk | hk
  · refine Eq.trans (bind_ok (pmaReadWords_quiet h hk hm2)) ?_
    by_cases hc : c.getLsbD 0 = true
    · have hodd : c.toNat % 2 = 1 := by rwa [odd_iff, decide_eq_true_eq] at hc
      rw [if_pos hc]
      have ha : s.cfg.mapped (dst + c.setWidth 32 - 1) = true := by
        rw [add_tail_sub hodd]
        exact List.all_eq_true.1 hm _ (by simp; omega)
      refine Eq.trans (bind_ok (pmaRead16_quiet (by exact h) (by show _ ≤ s.cfg.pmaBytes; omega))) ?_
      refine Eq.trans (memWrite_quiet (by exact h) _ ha) ?_
      have hn : c.toNat = 2 * (c.toNat / 2) + 1 := by omega
      rw [State.unpacked, add_tail_sub hodd]
      conv => rhs; rw [hn, Memory.bytes_add, Memory.writeFrom_append, Memory.length_bytes]
      have hd : c.toNat - 1 = 2 * (c.toNat / 2) := by omega
      simp [Memory.bytes, Memory.writeFrom, Memory.word, he, hd, Nat.mul_add]
    · have hodd : c.toNat % 2 = 0 := by
        have : ¬ c.toNat % 2 = 1 := by rwa [odd_iff, decide_eq_true_eq] at hc
        omega
      rw [if_neg hc, State.unpacked, he, show 2 * (c.toNat / 2) = c.toNat by omega]
      rfl
  · have hc : c = 0 := BitVec.eq_of_toNat_eq (by simpa using hk)
    subst hc
    rfl

/-! ## Reads of the foreground (R341) -/

/-- A read by name that answers leaves its value in `seen`, and else the state as the read leaves it. -/
theorem foregroundGet_ok {x : Shared} {v : SharedValue} {t : State} (e : readShared x s = .ok (v, t)) :
    foregroundGet x s = .ok ((), { t with seen := some v }) := bind_ok e

/-- A read by name that stops stops the step. -/
theorem foregroundGet_error {x : Shared} {e : Stop} (h : readShared x s = .error e) : foregroundGet x s = .error e :=
  bind_error h

end Sys2Proof.Machine
end

