-- ==== Sys2Proof/Laws/Control.lean ====
section
/-! SUPPORT. What the control machine's shared parts, the driver's calls and a dispatch answer when no SIE step falls inside
them: one equation per operation. -/

namespace Sys2Proof.Machine

variable {s : State}

/-! ## Configuration (R162 to R167) -/

section quiet

variable (h : Quiet s)

include h

/-- Two descriptor writes and then another computation. -/
theorem bdWrite_two {n : Fin 8} {f g : BdField} {v w : Half} (hf : wordsFree s (bdWords s.cfg n [(f, v), (g, w)]) = true)
    {α : Type} (k : M α) :
    (do bdWrite n f v; bdWrite n g w; k) s = k (s.putWords (bdWords s.cfg n [(f, v), (g, w)])) := by
  obtain ⟨h1, hf⟩ := bdWrite_cons h hf
  obtain ⟨h2, _⟩ := bdWrite_cons (s := s.putWords (bdWords s.cfg n [(f, v)])) h hf
  exact Eq.trans (bind_ok h1) (bind_ok h2)

/-- Four descriptor writes and then another computation. -/
theorem bdWrite_four {n : Fin 8} {f1 f2 f3 f4 : BdField} {v1 v2 v3 v4 : Half}
    (hf : wordsFree s (bdWords s.cfg n [(f1, v1), (f2, v2), (f3, v3), (f4, v4)]) = true) {α : Type} (k : M α) :
    (do bdWrite n f1 v1; bdWrite n f2 v2; bdWrite n f3 v3; bdWrite n f4 v4; k) s =
      k (s.putWords (bdWords s.cfg n [(f1, v1), (f2, v2), (f3, v3), (f4, v4)])) := by
  obtain ⟨h1, hf⟩ := bdWrite_cons h hf
  obtain ⟨h2, hf⟩ := bdWrite_cons (s := s.putWords (bdWords s.cfg n [(f1, v1)])) h hf
  exact Eq.trans (bind_ok h1) (Eq.trans (bind_ok h2)
    (bdWrite_two (s := (s.putWords (bdWords s.cfg n [(f1, v1)])).putWords (bdWords s.cfg n [(f2, v2)])) h hf k))

/-- A configuration's register write after its descriptor writes. -/
theorem configureRegister_after (n : Fin 8) (ty : EpType) (k : Bool) (rx tx : Stat) (ws : List (Nat × Half)) :
    configureRegister n ty k rx tx (s.putWords ws) =
      .ok ((), (s.putWords ws).setEpr n (configured s.epr[n] ty k n rx tx)) :=
  configureRegister_quiet (s := s.putWords ws) h n ty k rx tx

/-! ## The control machine -/

theorem sendChunk_quiet (hw : chunkWritable s = true) : sendChunk s = .ok ((), s.chunkSent) := by
  simp only [chunkWritable, Bool.and_eq_true] at hw
  refine Eq.trans (bind_ok (getS_apply s)) ?_
  refine Eq.trans (bind_ok (pmaWrite_quiet h hw.1)) ?_
  exact bind_ok (bdWrite_free (s := s.packed s.ctx.buffer s.cfg.ep0TxOff (chunk s)) h hw.2)

theorem setStat0_quiet (d : Dir) (st : Stat) : setStatusAt 0 d st s = .ok ((), s.setStat0 d st) :=
  setStatusAt_quiet h 0 d st

theorem enterStatusOut_quiet : enterStatusOut s = .ok ((), s.statusOutEntered) := by
  refine Eq.trans (bind_ok (setKindAt_quiet h 0)) ?_
  exact bind_ok (setStat0_quiet (s := s.setEpr 0 (s.epr[0] ||| kindBit)) h .dirOut .valid)

theorem enterStatusIn_quiet (hf : StatusInFree s) : enterStatusIn s = .ok ((), s.statusInEntered) := by
  refine Eq.trans (bind_ok (upd_apply _ s)) ?_
  have hf' : wordsFree (s.setStage stStatusIn) (bdWords s.cfg 0 [(.countTx, 0)]) = true :=
    (wordsFree_congr rfl rfl rfl _).trans hf
  refine Eq.trans (bind_ok (bdWrite_free (s := s.setStage stStatusIn) h hf')) ?_
  exact setStat0_quiet (s := (s.setStage stStatusIn).putWords (bdWords s.cfg 0 [(.countTx, 0)])) h .dirIn .valid

theorem stallBoth_quiet (c : Byte) : stallBoth c s = .ok ((), s.stalled c) := by
  refine Eq.trans (bind_ok (upd_apply _ s)) ?_
  refine Eq.trans (bind_ok (setStallAt_quiet (s := { s with stalls := c :: s.stalls }) h 0 .dirIn)) ?_
  refine Eq.trans (bind_ok (setStallAt_quiet
    (s := { s with stalls := c :: s.stalls }.setEpr 0 (stalledDir s.epr[0] .dirIn)) h 0 .dirOut)) ?_
  simp [State.stalled, State.setEpr, clearCtx, upd, State.clearCtx]

theorem stallResponse_quiet (hd : MayRespond s) (c : Byte) :
    stallResponse c s = .ok ((), s.answered.stalled c) :=
  Eq.trans (bind_ok (requireDispatch_ok hd)) (stallBoth_quiet (s := s.answered) h c)

theorem prepareDataIn_quiet (hd : MayRespond s) {p : SetupPacket} (hp : s.setup = some p) {b c : Addr}
    (hw : chunkWritable (s.dataInCtx p b c) = true) : prepareDataIn b c s = .ok ((), s.dataIn p b c) := by
  refine Eq.trans (bind_ok (requireDispatch_ok hd)) ?_
  refine Eq.trans (bind_ok (readSetup_ok (s := s.answered) hp hd.1)) ?_
  refine Eq.trans (bind_ok (upd_apply _ _)) ?_
  refine Eq.trans (bind_ok (sendChunk_quiet (s := s.dataInCtx p b c) h hw)) ?_
  refine Eq.trans (bind_ok (getS_apply _)) ?_
  refine Eq.trans (bind_ok (setStat0_quiet (s := (s.dataInCtx p b c).chunkSent) h _ _)) ?_
  exact setStat0_quiet (s := ((s.dataInCtx p b c).chunkSent).setStat0 .dirOut _) h _ _

theorem prepareStatusIn_quiet (hd : MayRespond s) (hf : StatusInFree s) :
    prepareStatusIn s = .ok ((), s.statusIn) := by
  refine Eq.trans (bind_ok (requireDispatch_ok hd)) ?_
  refine Eq.trans (bind_ok (upd_apply _ _)) ?_
  refine enterStatusIn_quiet (by exact h) ?_
  exact (wordsFree_congr rfl rfl rfl _).trans hf

/-! ## The driver, when it only answers -/

omit h in
theorem takeAnswer_mem {c : Callee} {l : List DrvAnswer} {d : DrvAnswer} {r : List DrvAnswer}
    (e : takeAnswer c l = some (d, r)) : d ∈ l ∧ ∀ x ∈ r, x ∈ l := by
  induction l generalizing d r with
  | nil => cases e
  | cons y l ih =>
    unfold takeAnswer at e
    split at e
    · cases e
      exact ⟨List.mem_cons_self, fun x hx => List.mem_cons_of_mem _ hx⟩
    · cases e2 : takeAnswer c l with
      | none => rw [e2] at e; cases e
      | some q =>
        obtain ⟨d', r'⟩ := q
        rw [e2] at e
        cases e
        obtain ⟨h1, h2⟩ := ih e2
        refine ⟨List.mem_cons_of_mem _ h1, fun x hx => ?_⟩
        rcases List.mem_cons.1 hx with hx | hx
        · exact hx ▸ List.mem_cons_self
        · exact List.mem_cons_of_mem _ (h2 x hx)

omit h in
theorem told_passive (hp : Passive s) (c : Callee) (as : List Half) : Passive (s.told c as) := by
  unfold State.told
  cases e : takeAnswer c s.answers with
  | none => exact hp
  | some q => exact fun d hd => hp d ((takeAnswer_mem e).2 d hd)

omit h in
theorem asked_passive (hp : Passive s) (c : Cap) (as : List Half) : Passive (s.asked c as) := by
  unfold State.asked
  cases e : takeAnswer (.cap c) s.answers with
  | none => exact told_passive hp _ as
  | some q => exact told_passive hp _ as

/-- A call that only answers: it is recorded, and its answer taken. -/
theorem callOut_quiet (hp : Passive s) (c : Callee) (as : List Half) :
    callOut c as s = .ok ((takeAnswer c s.answers).map (·.1), s.told c as) := by
  refine Eq.trans (bind_ok (tick_quiet h)) ?_
  refine Eq.trans (bind_ok (getS_apply s)) ?_
  unfold State.told
  cases e : takeAnswer c s.answers with
  | none => rfl
  | some q =>
    obtain ⟨d, r⟩ := q
    have ha : d.acts = [] := hp d (takeAnswer_mem e).1
    dsimp only
    rw [ha]
    rfl

theorem notify_quiet (hp : Passive s) (c : Callee) (as : List Half) :
    notify c as s = .ok ((), s.told c as) :=
  bind_ok (callOut_quiet h hp c as)

theorem ask_quiet (hp : Passive s) (c : Cap) (as : List Half) :
    ask c as s = .ok (answerOf s c, s.asked c as) := by
  refine Eq.trans (bind_ok (callOut_quiet h hp _ as)) ?_
  unfold State.asked answerOf
  cases e : takeAnswer (.cap c) s.answers with
  | none =>
    have hd : (s.told (.cap c) as).draws = s.draws := by
      unfold State.told
      rw [e]
    show Except.ok ((Config.freeAnswer (s.told (.cap c) as).draws, Config.freeCount (s.told (.cap c) as).draws), _) = _
    rw [hd]
  | some q => rfl

theorem askBool_quiet (hp : Passive s) (c : Cap) (as : List Half) :
    askBool c as s = .ok (saysYes s c, s.asked c as) :=
  bind_ok (ask_quiet h hp c as)

theorem askByte_quiet (hp : Passive s) (c : Cap) (as : List Half) :
    askByte c as s = .ok ((answerOf s c).1.extractLsb' 0 8, s.asked c as) :=
  bind_ok (ask_quiet h hp c as)

theorem hook_quiet (hp : Passive s) (c : Cap) :
    hook c s = .ok ((), if hasCap s.driver c then s.told (.cap c) [] else s) := by
  refine Eq.trans (bind_ok (getS_apply s)) ?_
  cases hasCap s.driver c with
  | true => exact notify_quiet h hp _ _
  | false => rfl

end quiet

/-! ## What a call leaves alone -/

section told

variable (c : Callee) (k : Cap) (as : List Half)

/-- A call changes the record of calls and the answers to come, and nothing else. -/
theorem told_eq : ∃ cs ans, s.told c as = { s with calls := cs, answers := ans } := by
  unfold State.told
  cases takeAnswer c s.answers with
  | none => exact ⟨_, s.answers, rfl⟩
  | some q => exact ⟨_, _, rfl⟩

/-- A call that answers may also count a draw. -/
theorem asked_eq : ∃ cs ans n, s.asked k as = { s with calls := cs, answers := ans, draws := n } := by
  unfold State.asked State.told
  cases takeAnswer (.cap k) s.answers with
  | none => exact ⟨_, s.answers, _, rfl⟩
  | some q => exact ⟨_, _, s.draws, rfl⟩

@[simp] theorem told_window : (s.told c as).window = s.window := by
  obtain ⟨_, _, e⟩ := told_eq (s := s) c as; rw [e]
@[simp] theorem told_cfg : (s.told c as).cfg = s.cfg := by
  obtain ⟨_, _, e⟩ := told_eq (s := s) c as; rw [e]
@[simp] theorem told_epr : (s.told c as).epr = s.epr := by
  obtain ⟨_, _, e⟩ := told_eq (s := s) c as; rw [e]
@[simp] theorem told_pma : (s.told c as).pma = s.pma := by
  obtain ⟨_, _, e⟩ := told_eq (s := s) c as; rw [e]
@[simp] theorem told_setup : (s.told c as).setup = s.setup := by
  obtain ⟨_, _, e⟩ := told_eq (s := s) c as; rw [e]
@[simp] theorem told_inDispatch : (s.told c as).inDispatch = s.inDispatch := by
  obtain ⟨_, _, e⟩ := told_eq (s := s) c as; rw [e]
@[simp] theorem told_responded : (s.told c as).responded = s.responded := by
  obtain ⟨_, _, e⟩ := told_eq (s := s) c as; rw [e]
@[simp] theorem asked_window : (s.asked k as).window = s.window := by
  obtain ⟨_, _, _, e⟩ := asked_eq (s := s) k as; rw [e]
@[simp] theorem asked_cfg : (s.asked k as).cfg = s.cfg := by
  obtain ⟨_, _, _, e⟩ := asked_eq (s := s) k as; rw [e]
@[simp] theorem asked_epr : (s.asked k as).epr = s.epr := by
  obtain ⟨_, _, _, e⟩ := asked_eq (s := s) k as; rw [e]
@[simp] theorem asked_pma : (s.asked k as).pma = s.pma := by
  obtain ⟨_, _, _, e⟩ := asked_eq (s := s) k as; rw [e]
@[simp] theorem asked_setup : (s.asked k as).setup = s.setup := by
  obtain ⟨_, _, _, e⟩ := asked_eq (s := s) k as; rw [e]
@[simp] theorem asked_inDispatch : (s.asked k as).inDispatch = s.inDispatch := by
  obtain ⟨_, _, _, e⟩ := asked_eq (s := s) k as; rw [e]
@[simp] theorem asked_responded : (s.asked k as).responded = s.responded := by
  obtain ⟨_, _, _, e⟩ := asked_eq (s := s) k as; rw [e]
@[simp] theorem asked_cpu : (s.asked k as).cpu = s.cpu := by
  obtain ⟨_, _, _, e⟩ := asked_eq (s := s) k as; rw [e]

end told

/-! ## Dispatches -/

/-- A dispatch whose handler answers `t` ends in `t` with the latch dead (R253). -/
theorem dispatch_ok {p : SetupPacket} {pt : Option Point} {m : M Unit} {t : State}
    (e : runPoint pt m (s.latched p) = .ok ((), t)) : dispatch p pt m s = .ok ((), t.endDispatch) :=
  Eq.trans (bind_ok (upd_apply _ s)) (bind_ok e)

/-- A legal request runs its handler. -/
theorem runPoint_legal {q : Point} (hq : s.cfg.legalPoint s.dev.state q = true) (m : M Unit) :
    runPoint (some q) m s = m s := by
  refine Eq.trans (bind_ok (getS_apply s)) ?_
  rw [if_pos hq]

/-- A request of no point, or of a null slot, is stalled. -/
theorem runPoint_stall (h : Quiet s) (hd : MayRespond s) {pt : Option Point}
    (hq : ∀ q, pt = some q → s.cfg.legalPoint s.dev.state q = false) (m : M Unit) :
    runPoint pt m s = .ok ((), s.answered.stalled (if pt = none then sUndefined else sNotLegal)) := by
  cases pt with
  | none => exact stallResponse_quiet h hd sUndefined
  | some q =>
    refine Eq.trans (bind_ok (getS_apply s)) ?_
    rw [hq q rfl, if_neg (by decide)]
    exact stallResponse_quiet h hd _

/-- The response from `status_buf` (R30). -/
theorem respondStatusBuf_one (h : Quiet s) (hd : MayRespond s) {p : SetupPacket} (hp : s.setup = some p) {b : Byte}
    (hw : statusBufSendable s p [b] = true) : respondStatusBuf [b] s = .ok ((), s.statusBufSent p [b]) := by
  simp only [statusBufSendable, Bool.and_eq_true, decide_eq_true_eq] at hw
  refine Eq.trans (bind_ok (getS_apply s)) ?_
  refine Eq.trans (bind_ok (memWrite_quiet h _ hw.1.1)) ?_
  exact prepareDataIn_quiet (s := s.statusBuf [b]) h hd hp hw.2

theorem respondStatusBuf_two (h : Quiet s) (hd : MayRespond s) {p : SetupPacket} (hp : s.setup = some p) {b c : Byte}
    (hw : statusBufSendable s p [b, c] = true) : respondStatusBuf [b, c] s = .ok ((), s.statusBufSent p [b, c]) := by
  simp only [statusBufSendable, Bool.and_eq_true, decide_eq_true_eq] at hw
  refine Eq.trans (bind_ok (getS_apply s)) ?_
  refine Eq.trans (bind_ok (memWrite_quiet h _ hw.1.1)) ?_
  refine Eq.trans (bind_ok (memWrite_quiet (by exact h) _ hw.1.2)) ?_
  exact prepareDataIn_quiet (s := s.statusBuf [b, c]) h hd hp hw.2

/-- A legal request whose handler answers `t` in the latched state ends in `t` with the latch dead (R253). -/
theorem outcome_dispatch {t : State} {p : SetupPacket} {q : Point} (hq : s.cfg.legalPoint s.dev.state q = true)
    {m : M Unit} (e : m (s.latched p) = .ok ((), t)) : outcome (dispatch p (some q) m) s = .next t.endDispatch :=
  outcome_ok (dispatch_ok (Eq.trans (runPoint_legal (s := s.latched p) hq m) e))

/-! ## The bus-reset handler's loop (R334) -/

/-- With every direction disabled the SIE owns no word (R72). -/
theorem sieOwns_disabled {t : State}
    (h : ∀ n : Fin 8, statOf .dirIn t.epr[n] = .disabled ∧ statOf .dirOut t.epr[n] = .disabled) (k : Nat) :
    sieOwns t k = false := by
  have : ∀ n, ownsThrough t k n = false := by
    intro n
    unfold ownsThrough txOwned rxOwned
    rw [(h n).1, (h n).2]
    simp
  simp [sieOwns, anyEp, this]

/-- Unregistering `k` endpoints from `n` on keeps `SETUP` alone in their registers and clears their entries (R197, R334). -/
theorem unregisterFrom_quiet (h : Quiet s) (k : Nat) (n : Nat) (hn : n + k ≤ 8) :
    ∃ t, unregisterFrom n k s = .ok ((), t) ∧ t = { s with epr := t.epr, ept := t.ept }
     ∧ (∀ i : Fin 8, t.epr[i] = if n ≤ i.val ∧ i.val < n + k then s.epr[i] &&& 0x0800 else s.epr[i])
     ∧ (∀ i : Fin 8, t.ept[i] = if n ≤ i.val ∧ i.val < n + k then EptEntry.unregistered else s.ept[i]) := by
  induction k generalizing s n with
  | zero => exact ⟨s, rfl, rfl, fun i => by rw [if_neg (by omega)], fun i => by rw [if_neg (by omega)]⟩
  | succ k ih =>
    have hb : (BitVec.ofNat 8 n).toNat < 8 := by simp; omega
    have hbn : (BitVec.ofNat 8 n).toNat = n := by simp; omega
    have e1 : unregisterEndpoint (BitVec.ofNat 8 n) s = .ok ((),
        (s.setEpr ⟨n, by omega⟩ (s.epr[n] &&& 0x0800)).setEpt ⟨n, by omega⟩ EptEntry.unregistered) := by
      unfold unregisterEndpoint
      rw [if_neg (by omega)]
      refine Eq.trans (bind_ok rfl) ?_
      refine Eq.trans (bind_ok (Eq.trans (bind_ok (epIndex_ok hb _)) (clearConfigurationAt_quiet h _))) ?_
      refine Eq.trans (bind_ok (epIndex_ok hb _)) ?_
      simp only [upd_apply, hbn]
      rfl
    obtain ⟨t, h1, h2, h3, h4⟩ := ih
      (s := (s.setEpr ⟨n, by omega⟩ (s.epr[n] &&& 0x0800)).setEpt ⟨n, by omega⟩ EptEntry.unregistered) h (n+1) (by omega)
    refine ⟨t, Eq.trans (bind_ok e1) h1, ?_, ?_, ?_⟩
    · rw [h2]; rfl
    · intro i
      rw [h3]
      simp only [State.setEpt, State.setEpr, Fin.getElem_fin, Vector.getElem_set]
      by_cases hi : i.val = n
      · subst hi; simp
      · rw [if_neg (show ¬ n = i.val by omega)]
        by_cases hh : n ≤ i.val ∧ i.val < n + (k+1)
        · rw [if_pos hh, if_pos (by omega)]
        · rw [if_neg hh, if_neg (by omega)]
    · intro i
      rw [h4]
      simp only [State.setEpt, State.setEpr, Fin.getElem_fin, Vector.getElem_set]
      by_cases hi : i.val = n
      · subst hi; simp
      · rw [if_neg (show ¬ n = i.val by omega)]
        by_cases hh : n ≤ i.val ∧ i.val < n + (k+1)
        · rw [if_pos hh, if_pos (by omega)]
        · rw [if_neg hh, if_neg (by omega)]

end Sys2Proof.Machine
end

