-- ==== Sys2Proof/Laws/Keeps.lean ====
section
/-! SUPPORT. Everything a computation can do to the state, said once: a relation that is reflexive, transitive and holds
across each elementary update holds across every instruction.  Invariants and frames that must hold whatever SIE steps fall
inside an operation (R70) and whatever a driver call does (R250) come from here. -/

namespace Sys2Proof.Machine

variable {α β : Type} {R : State → State → Prop}

/-- `R` relates the state that `m` starts in to the one it ends in, also when it ends in a fatal assertion. -/
def Keeps (R : State → State → Prop) (m : M α) : Prop :=
  ∀ s, match m s with
    | .ok (_, t) => R s t
    | .error (.halt t) => R s t
    | .error (.fault _) => True
    | .error (.refused _) => True

/-- The elementary updates that every step of the SIE but the bus reset is made of (R290). -/
structure SieClosed (R : State → State → Prop) : Prop where
  refl : ∀ s, R s s
  trans : ∀ {s t u}, R s t → R t u → R s u
  bus : ∀ s b, R s { s with bus := b }
  draws : ∀ s n, R s { s with draws := n }
  pmaBytes : ∀ s a d, R s { s with pma := s.pma.writeBytes a d }
  pmaWord : ∀ s k v, R s { s with pma := s.pma.writeWord k v }
  epr : ∀ s n r, R s (s.setEpr n r)
  istrSet : ∀ s b, b &&& ~~~ istrFlagMask = 0 → R s { s with istr := s.istr ||| b }

/-- The bus reset of R297, which writes `DADDR`. -/
abbrev ResetClosed (R : State → State → Prop) : Prop :=
  ∀ s : State, R s { s with epr := Vector.replicate 8 0, daddr := 0, istr := s.istr ||| istrReset }

/-- The elementary updates that every operation of the block is made of, with the SIE steps of its windows. -/
structure Closed (R : State → State → Prop) : Prop extends SieClosed R where
  tick : Keeps R tick
  cpu : ∀ s a v, R s { s with cpu := s.cpu.write a v }
  fatal : ∀ s c, R s { s with fatal := some c }
  latch : ∀ s p d r, R s { s with setup := p, inDispatch := d, responded := r }
  ctx : ∀ s c, R s { s with ctx := c }
  pending : ∀ s b a, R s { s with dev := { s.dev with addrPending := b, pendingAddr := a } }
  ept : ∀ s n e, R s (s.setEpt n e)
  ret : ∀ s v, R s { s with ret := v }
  stalls : ∀ s l, R s { s with stalls := l }
  calls : ∀ s c a, R s { s with calls := c, answers := a }
  due : ∀ s b e, R s { s with stageDue := b, ev := e }
  isr : ∀ s p h, R s { s with isrPending := p, isrHandled := h }

/-- The further updates that single instructions make: of `DADDR`, of the device state, and those of `core_init`. -/
def Extra (R : State → State → Prop) : Instr → Prop
  | .evReset => (∀ s w, R s { s with daddr := w })
      ∧ ∀ s, R s { s with dev := { s.dev with state := .default, previous := .default } }
  | .stageStatusIn => (∀ s w, R s { s with daddr := w })
      ∧ ∀ s a, R s { s with dev := { s.dev with addrPending := false, state := addressedState a s.dev.state } }
  | .setConfiguration r => ∀ s, R s (s.setDev (if valueLow r ≠ 0 then .configured else .addressed))
  | .evSusp => ∀ s, s.dev.state ≠ .suspended →
      R s { s with dev := { s.dev with previous := s.dev.state, state := .suspended } }
  | .evWkup => ∀ s, s.dev.state = .suspended → R s (s.setDev s.dev.previous)
  | .coreInit _ => (∀ s f, R s { s with driver := f }) ∧ (∀ s w, R s { s with cntr := w })
      ∧ (∀ s w, R s (s.writeReg .istr w)) ∧ (∀ s w, R s (s.writeReg .btable w)) ∧ ∀ s, R s s.initialised
  | .hostBusReset => ResetClosed R
  | _ => True

/-! ## Combinators -/

theorem keeps_outcome {m : M Unit} (h : Keeps R m) {s t : State} (e : outcome m s = .next t) : R s t := by
  have hs := h s
  unfold outcome at e
  cases hm : m s with
  | ok p =>
    rw [hm] at hs e
    cases e
    exact hs
  | error x =>
    rw [hm] at hs e
    cases x <;> cases e
    exact hs

theorem keeps_fault (f : Fault) : Keeps R (fault f : M α) := fun _ => trivial

theorem keeps_refuse (r : Refusal) : Keeps R (refuse r : M α) := fun _ => trivial

theorem keeps_upd {f : State → State} (h : ∀ s, R s (f s)) : Keeps R (upd f) := fun s => h s

namespace SieClosed

variable (h : SieClosed R)

include h

theorem pure (a : α) : Keeps R (Pure.pure a : M α) := fun s => h.refl s

theorem getS : Keeps R getS := fun s => h.refl s

theorem bind {m : M α} {f : α → M β} (hm : Keeps R m) (hf : ∀ a, Keeps R (f a)) : Keeps R (m >>= f) := by
  intro s
  have h1 := hm s
  rw [bind_apply]
  cases e : m s with
  | ok p =>
    rw [e] at h1
    have h2 := hf p.1 p.2
    dsimp only
    cases e2 : f p.1 p.2 with
    | ok q =>
      rw [e2] at h2
      exact h.trans h1 h2
    | error x =>
      rw [e2] at h2
      cases x with
      | halt t => exact h.trans h1 h2
      | fault _ => trivial
      | refused _ => trivial
  | error x =>
    rw [e] at h1
    cases x with
    | halt t => exact h1
    | fault _ => trivial
    | refused _ => trivial

/-- A computation after the state has been read. -/
theorem read {f : State → M α} (hf : ∀ a, Keeps R (f a)) : Keeps R (Machine.getS >>= f) := h.bind h.getS hf

/-- An update before a computation. -/
theorem after {f : State → State} {m : M α} (hu : ∀ s, R s (f s)) (hm : Keeps R m) :
    Keeps R (upd f >>= fun _ => m) :=
  h.bind (keeps_upd hu) fun _ => hm

theorem draw : Keeps R draw := fun s => h.draws s _

end SieClosed

namespace Closed

variable (h : Closed R)

include h

theorem raise (c : FatalCause) : Keeps R (raiseFatal c : M α) := fun s => h.fatal s c

theorem clear (s : State) : R s s.clearCtx :=
  h.trans (h.ctx s Ctx.cleared) (h.pending { s with ctx := Ctx.cleared } false s.dev.pendingAddr)

theorem stage (s : State) (w : BitVec 3) : R s (s.setStage w) := h.ctx s _

end Closed

/-! ## The SIE and the atomic steps -/

namespace SieClosed

variable (h : SieClosed R)

include h

theorem answer (b : BusAnswer) : Keeps R (answer b) := keeps_upd fun s => h.bus s _

theorem sieBd (n : Fin 8) (f : BdField) : Keeps R (sieBd n f) := by
  intro s
  by_cases hc : 2 * bdIndex s.cfg n f + 2 ≤ s.cfg.pmaBytes
  · simpa [Machine.sieBd, hc] using h.refl s
  · simp [Machine.sieBd, hc]

theorem siePut (a : Nat) (d : List Byte) : Keeps R (siePut a d) := by
  intro s
  by_cases hc : d = [] ∨ a + d.length ≤ s.cfg.pmaBytes
  · simpa [Machine.siePut, hc] using h.pmaBytes s a d
  · simp [Machine.siePut, hc]

theorem sieCount (n : Fin 8) (len : Nat) : Keeps R (sieCount n len) :=
  keeps_upd fun s => h.pmaWord s _ _

theorem sieSetup (a : BitVec 7) (e : BitVec 4) (d : List Byte) : Keeps R (sieSetup a e d) := by
  refine h.read fun s => ?_
  split
  · exact h.answer _
  · rename_i n _
    split
    · exact h.answer _
    split
    · exact h.answer _
    split
    · exact h.answer _
    refine h.bind (h.sieBd _ _) fun cr => ?_
    split
    · exact h.answer _
    refine h.bind (h.sieBd _ _) fun ar => h.bind (h.siePut _ _) fun _ => h.bind (h.sieCount _ _) fun _ => ?_
    exact h.bind h.draw fun k => h.after (fun t => h.epr t n _) (h.answer _)

theorem sieOut (a : BitVec 7) (e : BitVec 4) (d : List Byte) : Keeps R (sieOut a e d) := by
  refine h.read fun s => ?_
  split
  · exact h.answer _
  · rename_i n _
    split
    · exact keeps_refuse _
    split
    · exact h.answer _
    · exact h.answer _
    · exact h.answer _
    split
    · exact h.answer _
    refine h.bind (h.sieBd _ _) fun cr => ?_
    split
    · exact h.answer _
    refine h.bind (h.sieBd _ _) fun ar => h.bind (h.siePut _ _) fun _ => h.bind (h.sieCount _ _) fun _ => ?_
    exact h.after (fun t => h.epr t n _) (h.answer _)

theorem sieIn (a : BitVec 7) (e : BitVec 4) : Keeps R (sieIn a e) := by
  refine h.read fun s => ?_
  split
  · exact h.answer _
  · rename_i n _
    split
    · exact keeps_refuse _
    split
    · exact h.answer _
    · exact h.answer _
    · exact h.answer _
    refine h.bind (h.sieBd _ _) fun ct => h.bind (h.sieBd _ _) fun at_ => ?_
    split
    · exact keeps_fault _
    exact h.bind (h.answer _) fun _ => keeps_upd fun t => h.epr t n _

theorem sieFlag {b : Half} (hb : b &&& ~~~ istrFlagMask = 0) : Keeps R (sieFlag b) :=
  keeps_upd fun s => h.istrSet s b hb

/-- A transaction or bus event, whichever the host chooses (R290). -/
theorem sieStep (t : Token) (hb : t = .busReset → ResetClosed R) : Keeps R (sieStep t) := by
  cases t with
  | setup a e d => exact h.sieSetup a e d
  | out a e d => exact h.sieOut a e d
  | inn a e => exact h.sieIn a e
  | sof f => exact h.sieFlag (by decide)
  | busReset => exact keeps_upd (hb rfl)
  | suspend => exact h.sieFlag (by decide)
  | resume => exact h.sieFlag (by decide)

theorem sieSteps (ts : List Token) (hb : .busReset ∈ ts → ResetClosed R) : Keeps R (sieSteps ts) := by
  induction ts with
  | nil => exact h.pure ()
  | cons t ts ih =>
    exact h.bind (h.sieStep t fun e => hb (e ▸ List.mem_cons_self)) fun _ => ih fun e => hb (List.mem_cons_of_mem _ e)

/-- The SIE steps of a window, for a relation that holds across taking the window and across a bus reset. -/
theorem tick (hw : ∀ (s : State) w, R s { s with window := w }) (hb : ResetClosed R) : Keeps R tick := by
  refine h.read fun s => ?_
  split
  · exact h.pure ()
  · exact h.after (fun t => hw t _) (h.sieSteps _ fun _ => hb)

end SieClosed

/-- The SIE's steps touch nothing but the endpoint registers, `ISTR`, `DADDR`, the packet memory, the bus and the count of
draws; the window that they stand in among the rest (R70, R290). -/
theorem sieSteps_window (ts : List Token) : Keeps (fun s t => t.window = s.window) (sieSteps ts) :=
  SieClosed.sieSteps (R := fun s t => t.window = s.window)
    { refl := fun _ => rfl, trans := fun h1 h2 => h2.trans h1, bus := fun _ _ => rfl, draws := fun _ _ => rfl,
      pmaBytes := fun _ _ _ => rfl, pmaWord := fun _ _ _ => rfl, epr := fun _ _ _ => rfl, istrSet := fun _ _ _ => rfl }
    ts fun _ _ => rfl

namespace Closed

variable (h : Closed R)

include h

theorem epIndex (n : Byte) : Keeps R (epIndex n) := by
  unfold Machine.epIndex
  split
  · exact h.pure _
  · exact keeps_fault _

theorem regRead (r : Reg) : Keeps R (regRead r) := by
  cases r with
  | istr =>
    exact h.bind h.tick fun _ => h.read fun s => h.after (fun t => h.draws t _) (h.pure _)
  | epr n => exact h.bind h.tick fun _ => h.read fun _ => h.pure _
  | cntr => exact h.bind h.tick fun _ => h.read fun _ => h.pure _
  | daddr => exact h.bind h.tick fun _ => h.read fun _ => h.pure _
  | btable => exact h.bind h.tick fun _ => h.read fun _ => h.pure _

/-- A register write, for a register whose writes `R` holds across. -/
theorem regWrite (r : Reg) (w : Half) (hr : ∀ s : State, R s (s.writeReg r w)) : Keeps R (regWrite r w) :=
  h.bind h.tick fun _ => keeps_upd hr

theorem pmaRead16 (k : Nat) : Keeps R (pmaRead16 k) := by
  refine h.bind h.tick fun _ => h.read fun s => ?_
  split
  · exact h.pure _
  · exact keeps_fault _

theorem pmaWrite16 (k : Nat) (v : Half) : Keeps R (pmaWrite16 k v) := by
  refine h.bind h.tick fun _ => h.read fun s => ?_
  split
  · split
    · exact keeps_fault _
    · exact keeps_upd fun t => h.pmaWord t k v
  · exact keeps_fault _

theorem bdRead (n : Fin 8) (f : BdField) : Keeps R (bdRead n f) := h.read fun _ => h.pmaRead16 _

theorem bdWrite (n : Fin 8) (f : BdField) (v : Half) : Keeps R (bdWrite n f v) := h.read fun _ => h.pmaWrite16 _ _

theorem memRead (a : Addr) : Keeps R (memRead a) := by
  refine h.bind h.tick fun _ => h.read fun s => ?_
  split
  · exact h.pure _
  · exact keeps_fault _

theorem memWrite (a : Addr) (v : Byte) : Keeps R (memWrite a v) := by
  refine h.bind h.tick fun _ => h.read fun s => ?_
  split
  · exact keeps_upd fun t => h.cpu t _ v
  · exact keeps_fault _

theorem eprRmw (n : Fin 8) (word : Half → Option Half) : Keeps R (eprRmw n word) := by
  refine h.bind (h.regRead _) fun snap => ?_
  split
  · exact h.pure _
  · exact h.bind (h.regWrite _ _ fun s => h.epr s n _) fun _ => h.pure _

theorem requireWriter : Keeps R requireWriter := by
  refine h.read fun s => ?_
  split
  · exact h.pure _
  · exact keeps_fault _

theorem requireDispatch : Keeps R requireDispatch := by
  refine h.read fun s => ?_
  split
  · exact keeps_upd fun t => h.latch t t.setup t.inDispatch true
  · exact keeps_fault _

theorem readSetup : Keeps R readSetup := by
  refine h.read fun s => ?_
  split
  · split
    · exact h.pure _
    · exact keeps_fault _
  · exact keeps_fault _

theorem clearCtx : Keeps R clearCtx := keeps_upd h.clear

/-! ## Packet memory and endpoint registers -/

theorem pmaCheck (o c : Half) : Keeps R (pmaCheck o c) := by
  refine h.read fun s => ?_
  split
  · exact keeps_fault _
  · split
    · exact keeps_fault _
    · exact h.pure _

theorem pmaWriteWords (a : Addr) (k n : Nat) : Keeps R (pmaWriteWords a k n) := by
  induction n generalizing a k with
  | zero => exact h.pure _
  | succ n ih =>
    exact h.bind (h.memRead _) fun _ => h.bind (h.memRead _) fun _ => h.bind (h.pmaWrite16 _ _) fun _ => ih _ _

theorem pmaReadWords (a : Addr) (k n : Nat) : Keeps R (pmaReadWords a k n) := by
  induction n generalizing a k with
  | zero => exact h.pure _
  | succ n ih =>
    exact h.bind (h.pmaRead16 _) fun _ => h.bind (h.memWrite _ _) fun _ => h.bind (h.memWrite _ _) fun _ => ih _ _

theorem pmaWrite (a : Addr) (o c : Half) : Keeps R (pmaWrite a o c) := by
  refine h.bind (h.pmaCheck _ _) fun _ => h.bind (h.pmaWriteWords _ _ _) fun _ => ?_
  split
  · exact h.bind (h.memRead _) fun _ => h.bind h.draw fun _ => h.pmaWrite16 _ _
  · exact h.pure _

theorem pmaRead (o : Half) (a : Addr) (c : Half) : Keeps R (pmaRead o a c) := by
  refine h.bind (h.pmaCheck _ _) fun _ => h.bind (h.pmaReadWords _ _ _) fun _ => ?_
  split
  · exact h.bind (h.pmaRead16 _) fun _ => h.memWrite _ _
  · exact h.pure _

theorem rmw_unit (n : Fin 8) (word : Half → Option Half) :
    Keeps R (do let _ ← Machine.eprRmw n word; Pure.pure ()) :=
  h.bind (h.eprRmw _ _) fun _ => h.pure _

theorem setStatusAt (n : Fin 8) (d : Dir) (st : Stat) : Keeps R (setStatusAt n d st) := h.rmw_unit _ _

theorem setStallAt (n : Fin 8) (d : Dir) : Keeps R (setStallAt n d) := h.rmw_unit _ _

theorem setKindAt (n : Fin 8) : Keeps R (setKindAt n) := h.rmw_unit _ _

theorem clearKindAt (n : Fin 8) : Keeps R (clearKindAt n) := h.rmw_unit _ _

theorem clearConfigurationAt (n : Fin 8) : Keeps R (clearConfigurationAt n) := h.rmw_unit _ _

theorem configureRegister (n : Fin 8) (ty : EpType) (k : Bool) (rx tx : Stat) :
    Keeps R (configureRegister n ty k rx tx) := h.rmw_unit _ _

theorem clearCompleteAt (n : Fin 8) (d : Dir) : Keeps R (clearCompleteAt n d) := h.eprRmw _ _

theorem epSetStatus (n : Byte) (d : Dir) (st : Stat) : Keeps R (epSetStatus n d st) :=
  h.bind (h.epIndex _) fun _ => h.setStatusAt _ _ _

theorem epSetStall (n : Byte) (d : Dir) : Keeps R (epSetStall n d) :=
  h.bind (h.epIndex _) fun _ => h.setStallAt _ _

theorem epClearStall (n : Byte) (d : Dir) : Keeps R (epClearStall n d) :=
  h.bind (h.epIndex _) fun _ => h.rmw_unit _ _

theorem epGetStall (n : Byte) (d : Dir) : Keeps R (epGetStall n d) :=
  h.bind (h.epIndex _) fun _ => h.bind (h.regRead _) fun _ => h.pure _

theorem epSetKind (n : Byte) : Keeps R (epSetKind n) := h.bind (h.epIndex _) fun _ => h.setKindAt _

theorem epClearKind (n : Byte) : Keeps R (epClearKind n) := h.bind (h.epIndex _) fun _ => h.clearKindAt _

theorem epClearConfiguration (n : Byte) : Keeps R (epClearConfiguration n) :=
  h.bind (h.epIndex _) fun _ => h.clearConfigurationAt _

theorem epClearTransferComplete (n : Byte) (d : Dir) : Keeps R (epClearTransferComplete n d) :=
  h.bind (h.epIndex _) fun _ => h.clearCompleteAt _ _

theorem epConfigure (n : Byte) (ty : EpType) (x r c : Half) : Keeps R (epConfigure n ty x r c) :=
  h.bind (h.epIndex _) fun _ => h.bind (h.bdWrite _ _ _) fun _ => h.bind (h.bdWrite _ _ _) fun _ =>
    h.bind (h.bdWrite _ _ _) fun _ => h.bind (h.bdWrite _ _ _) fun _ => h.configureRegister _ _ _ _ _

theorem epConfigureTx (n : Byte) (ty : EpType) (x : Half) : Keeps R (epConfigureTx n ty x) :=
  h.bind (h.epIndex _) fun _ => h.bind (h.bdWrite _ _ _) fun _ => h.bind (h.bdWrite _ _ _) fun _ =>
    h.configureRegister _ _ _ _ _

theorem epConfigureRx (n : Byte) (ty : EpType) (r c : Half) : Keeps R (epConfigureRx n ty r c) :=
  h.bind (h.epIndex _) fun _ => h.bind (h.bdWrite _ _ _) fun _ => h.bind (h.bdWrite _ _ _) fun _ =>
    h.configureRegister _ _ _ _ _

theorem epConfigureDoubleTx (n : Byte) (ty : EpType) (x y : Half) : Keeps R (epConfigureDoubleTx n ty x y) :=
  h.bind (h.epIndex _) fun _ => h.bind (h.bdWrite _ _ _) fun _ => h.bind (h.bdWrite _ _ _) fun _ =>
    h.bind (h.bdWrite _ _ _) fun _ => h.bind (h.bdWrite _ _ _) fun _ => h.configureRegister _ _ _ _ _

theorem epConfigureDoubleRx (n : Byte) (ty : EpType) (x y c : Half) : Keeps R (epConfigureDoubleRx n ty x y c) :=
  h.bind (h.epIndex _) fun _ => h.bind (h.bdWrite _ _ _) fun _ => h.bind (h.bdWrite _ _ _) fun _ =>
    h.bind (h.bdWrite _ _ _) fun _ => h.bind (h.bdWrite _ _ _) fun _ => h.configureRegister _ _ _ _ _

theorem returnValue (v : Half) : Keeps R (returnValue v) := keeps_upd fun s => h.ret s v

/-! ## The endpoint table -/

theorem requireChecks (c : Option FatalCause) : Keeps R (requireChecks c) := by
  cases c with
  | none => exact h.pure _
  | some f => exact h.raise f

theorem putEntry (n : Byte) (e : EptEntry) : Keeps R (putEntry n e) :=
  h.bind (h.epIndex _) fun i => keeps_upd fun s => h.ept s i e

theorem registerEndpoint (e : Byte) (ty : EpType) (x r c : Half) (i o : Option CbId) :
    Keeps R (registerEndpoint e ty x r c i o) :=
  h.read fun _ => h.bind (h.requireChecks _) fun _ => h.bind (h.epConfigure _ _ _ _ _) fun _ => h.putEntry _ _

theorem registerEndpointTx (e : Byte) (ty : EpType) (x : Half) (i : Option CbId) :
    Keeps R (registerEndpointTx e ty x i) :=
  h.read fun _ => h.bind (h.requireChecks _) fun _ => h.bind (h.epConfigureTx _ _ _) fun _ => h.putEntry _ _

theorem registerEndpointRx (e : Byte) (ty : EpType) (r c : Half) (o : Option CbId) :
    Keeps R (registerEndpointRx e ty r c o) :=
  h.read fun _ => h.bind (h.requireChecks _) fun _ => h.bind (h.epConfigureRx _ _ _ _) fun _ => h.putEntry _ _

theorem registerEndpointDoubleTx (e : Byte) (ty : EpType) (x y : Half) (i : Option CbId) :
    Keeps R (registerEndpointDoubleTx e ty x y i) :=
  h.read fun _ => h.bind (h.requireChecks _) fun _ => h.bind (h.epConfigureDoubleTx _ _ _ _) fun _ => h.putEntry _ _

theorem registerEndpointDoubleRx (e : Byte) (ty : EpType) (x y c : Half) (o : Option CbId) :
    Keeps R (registerEndpointDoubleRx e ty x y c o) :=
  h.read fun _ => h.bind (h.requireChecks _) fun _ => h.bind (h.epConfigureDoubleRx _ _ _ _ _) fun _ => h.putEntry _ _

theorem unregisterEndpoint (e : Byte) : Keeps R (unregisterEndpoint e) :=
  h.bind (h.requireChecks _) fun _ => h.bind (h.epClearConfiguration _) fun _ => h.putEntry _ _

/-! ## The control machine -/

theorem setCtx (c : Ctx) : Keeps R (setCtx c) := keeps_upd fun s => h.ctx s c

theorem sendChunk : Keeps R sendChunk :=
  h.read fun _ => h.bind (h.pmaWrite _ _ _) fun _ => h.bind (h.bdWrite _ _ _) fun _ => keeps_upd fun t => h.ctx t _

theorem receiveChunk : Keeps R receiveChunk :=
  h.bind (h.bdRead _ _) fun _ => h.read fun _ => h.bind (h.pmaRead _ _ _) fun _ =>
    h.after (fun t => h.ctx t _) (h.pure _)

theorem enterStatusOut : Keeps R enterStatusOut :=
  h.bind (h.setKindAt _) fun _ => h.bind (h.setStatusAt _ _ _) fun _ => keeps_upd fun s => h.stage s _

theorem enterStatusIn : Keeps R enterStatusIn :=
  h.after (fun s => h.stage s _) (h.bind (h.bdWrite _ _ _) fun _ => h.setStatusAt _ _ _)

theorem stallBoth (c : Byte) : Keeps R (stallBoth c) :=
  h.after (fun s => h.stalls s _) (h.bind (h.setStallAt _ _) fun _ => h.bind (h.setStallAt _ _) fun _ => h.clearCtx)

theorem stallResponse (c : Byte) : Keeps R (stallResponse c) := h.bind h.requireDispatch fun _ => h.stallBoth _

theorem prepareDataIn (b c : Addr) : Keeps R (prepareDataIn b c) :=
  h.bind h.requireDispatch fun _ => h.bind h.readSetup fun _ => h.bind (h.setCtx _) fun _ =>
    h.bind h.sendChunk fun _ => h.read fun _ => h.bind (h.setStatusAt _ _ _) fun _ => h.setStatusAt _ _ _

theorem prepareDataOut (b c : Addr) (f : Option CbId) : Keeps R (prepareDataOut b c f) := by
  refine h.bind h.requireDispatch fun _ => h.bind (h.setCtx _) fun _ => ?_
  split
  · exact h.enterStatusIn
  · exact h.setStatusAt _ _ _

theorem prepareStatusIn : Keeps R prepareStatusIn :=
  h.bind h.requireDispatch fun _ => h.bind (h.setCtx _) fun _ => h.enterStatusIn

/-! ## The driver -/

theorem drvRun (i : Instr) : Keeps R (drvRun i) := by
  cases i with
  | pmaRead o d c => exact h.pmaRead _ _ _
  | pmaWrite a o c => exact h.pmaWrite _ _ _
  | registerEndpoint e t x r c i o => exact h.registerEndpoint _ _ _ _ _ _ _
  | registerEndpointTx e t x i => exact h.registerEndpointTx _ _ _ _
  | registerEndpointRx e t r c o => exact h.registerEndpointRx _ _ _ _ _
  | registerEndpointDoubleTx e t x y i => exact h.registerEndpointDoubleTx _ _ _ _ _
  | registerEndpointDoubleRx e t x y c o => exact h.registerEndpointDoubleRx _ _ _ _ _ _
  | unregisterEndpoint e => exact h.unregisterEndpoint _
  | epConfigure n t x r c => exact h.epConfigure _ _ _ _ _
  | epConfigureTx n t x => exact h.epConfigureTx _ _ _
  | epConfigureRx n t r c => exact h.epConfigureRx _ _ _ _
  | epConfigureDoubleTx n t x y => exact h.epConfigureDoubleTx _ _ _ _
  | epConfigureDoubleRx n t x y c => exact h.epConfigureDoubleRx _ _ _ _ _
  | epClearConfiguration n => exact h.epClearConfiguration _
  | epSetStall n d => exact h.epSetStall _ _
  | epClearStall n d => exact h.epClearStall _ _
  | epGetStall n d => exact h.bind (h.epGetStall _ _) fun _ => h.returnValue _
  | epSetStatus n d v => exact h.epSetStatus _ _ _
  | epSetKind n => exact h.epSetKind _
  | epClearKind n => exact h.epClearKind _
  | epClearTransferComplete n d => exact h.bind (h.epClearTransferComplete _ _) fun _ => h.returnValue _
  | prepareDataIn b c => exact h.prepareDataIn _ _
  | prepareDataOut b c f => exact h.prepareDataOut _ _ _
  | prepareStatusIn => exact h.prepareStatusIn
  | stallEp0 c => exact h.stallResponse _
  | getStatus => exact keeps_refuse _
  | clearFeature => exact keeps_refuse _
  | setFeature => exact keeps_refuse _
  | setAddress => exact keeps_refuse _
  | getDescriptor => exact keeps_refuse _
  | setDescriptor => exact keeps_refuse _
  | getConfiguration => exact keeps_refuse _
  | setConfiguration => exact keeps_refuse _
  | getInterface => exact keeps_refuse _
  | setInterface => exact keeps_refuse _
  | synchFrame => exact keeps_refuse _
  | stdUndefined => exact keeps_refuse _
  | classRequest => exact keeps_refuse _
  | vendorRequest => exact keeps_refuse _
  | reservedType => exact keeps_refuse _
  | ctrEp0Out => exact keeps_refuse _
  | ctrEp0In => exact keeps_refuse _
  | ctrEpnOut => exact keeps_refuse _
  | ctrEpnIn => exact keeps_refuse _
  | evReset => exact keeps_refuse _
  | evWkup => exact keeps_refuse _
  | evSusp => exact keeps_refuse _
  | evSof => exact keeps_refuse _
  | stageSetup => exact keeps_refuse _
  | stageDataIn => exact keeps_refuse _
  | stageDataOut => exact keeps_refuse _
  | stageStatusIn => exact keeps_refuse _
  | stageStatusOut => exact keeps_refuse _
  | coreInit => exact keeps_refuse _
  | hostSetup => exact keeps_refuse _
  | hostOut => exact keeps_refuse _
  | hostIn => exact keeps_refuse _
  | hostSof => exact keeps_refuse _
  | hostBusReset => exact keeps_refuse _
  | hostSuspend => exact keeps_refuse _
  | hostResume => exact keeps_refuse _

theorem drvAct (c : Callee) (x : DrvAct) : Keeps R (drvAct c x) := by
  cases x with
  | readCpu a => exact h.bind (h.memRead _) fun _ => h.pure _
  | call i =>
    refine h.read fun s => ?_
    split
    · exact h.drvRun i
    · split
      · exact keeps_refuse _
      · exact h.drvRun i
    · split
      · exact keeps_refuse _
      · exact h.drvRun i
    · exact keeps_refuse _

theorem drvActs (c : Callee) (xs : List DrvAct) : Keeps R (drvActs c xs) := by
  induction xs with
  | nil => exact h.pure _
  | cons x xs ih => exact h.bind (h.drvAct c x) fun _ => ih

/-- A call outside the block, whatever it answers and does. -/
theorem callOut (c : Callee) (as : List Half) : Keeps R (callOut c as) := by
  refine h.bind h.tick fun _ => h.read fun s => ?_
  split
  · exact h.after (fun t => h.calls t _ t.answers) (h.pure _)
  · exact h.after (fun t => h.calls t _ _) (h.bind (h.drvActs _ _) fun _ => h.pure _)

theorem notify (c : Callee) (as : List Half) : Keeps R (notify c as) :=
  h.bind (h.callOut _ _) fun _ => h.pure _

theorem ask (c : Cap) (as : List Half) : Keeps R (ask c as) := by
  refine h.bind (h.callOut _ _) fun d => ?_
  split
  · exact h.pure _
  · exact h.bind h.draw fun _ => h.pure _

theorem askBool (c : Cap) (as : List Half) : Keeps R (askBool c as) := h.bind (h.ask _ _) fun _ => h.pure _

theorem askByte (c : Cap) (as : List Half) : Keeps R (askByte c as) := h.bind (h.ask _ _) fun _ => h.pure _

theorem hook (c : Cap) : Keeps R (hook c) := by
  refine h.read fun s => ?_
  split
  · exact h.notify _ _
  · exact h.pure _

/-! ## Stages, requests, events -/

theorem takeEvent : Keeps R takeEvent := fun s => h.due s false s.ev

theorem readPacket : Keeps R readPacket :=
  h.read fun _ => h.bind (h.pmaRead16 _) fun _ => h.bind (h.pmaRead16 _) fun _ => h.bind (h.pmaRead16 _) fun _ =>
    h.bind (h.pmaRead16 _) fun _ => h.pure _

theorem setupStage (e : Ev) : Keeps R (setupStage e) := by
  unfold Machine.setupStage
  split
  · exact h.stallBoth _
  · refine h.bind (h.bdRead _ _) fun w => ?_
    split
    · exact h.stallBoth _
    · exact h.bind h.readPacket fun p => keeps_upd fun s => h.latch s _ _ _

theorem dataInStage : Keeps R dataInStage := by
  refine h.read fun s => ?_
  split
  · exact h.bind h.sendChunk fun _ => h.setStatusAt _ _ _
  · exact h.enterStatusOut

theorem dataOutStage : Keeps R dataOutStage := by
  refine h.bind h.receiveChunk fun rc => h.read fun s => ?_
  split
  · exact h.enterStatusIn
  · exact h.setStatusAt _ _ _

theorem applyIfPending (hx : Extra R .stageStatusIn) : Keeps R applyIfPending := by
  refine h.read fun s => ?_
  split
  · exact h.read fun s => h.bind (h.regWrite _ _ fun s => hx.1 s _) fun _ => keeps_upd fun t => hx.2 t _
  · exact h.pure _

theorem runCompletion : Keeps R runCompletion := by
  refine h.read fun s => ?_
  split
  · exact h.notify _ _
  · exact h.pure _

theorem statusInStage (hx : Extra R .stageStatusIn) : Keeps R statusInStage :=
  h.bind (h.applyIfPending hx) fun _ => h.bind h.runCompletion fun _ => h.bind h.clearCtx fun _ => h.setStatusAt _ _ _

theorem statusOutStage : Keeps R statusOutStage :=
  h.bind (h.clearKindAt _) fun _ => h.bind h.clearCtx fun _ => h.setStatusAt _ _ _

theorem runPoint (pt : Option Point) {m : M Unit} (hm : Keeps R m) : Keeps R (runPoint pt m) := by
  unfold Machine.runPoint
  split
  · exact h.stallResponse _
  · refine h.read fun s => ?_
    split
    · exact hm
    · exact h.stallResponse _

theorem dispatch (p : SetupPacket) (pt : Option Point) {m : M Unit} (hm : Keeps R m) :
    Keeps R (dispatch p pt m) :=
  h.after (fun s => h.latch s _ _ _) (h.bind (h.runPoint pt hm) fun _ =>
    keeps_upd fun s => h.latch s none false s.responded)

theorem epTarget (r : Req) : Keeps R (epTarget r) := by
  unfold Machine.epTarget
  dsimp only
  split
  · exact h.bind (h.askBool _ _) fun ok => h.pure _
  · exact h.pure _

theorem respondStatusBuf (bs : List Byte) : Keeps R (respondStatusBuf bs) := by
  refine h.read fun s => ?_
  split
  · exact h.bind (h.memWrite _ _) fun _ => h.prepareDataIn _ _
  · exact h.bind (h.memWrite _ _) fun _ => h.bind (h.memWrite _ _) fun _ => h.prepareDataIn _ _
  · exact h.pure _

theorem getStatus (r : Req) : Keeps R (getStatus r) := by
  unfold Machine.getStatus
  split
  · exact h.bind (h.askBool _ _) fun _ => h.bind (h.askBool _ _) fun _ => h.respondStatusBuf _
  split
  · refine h.bind (h.askBool _ _) fun ok => ?_
    split
    · exact h.respondStatusBuf _
    · exact h.stallResponse _
  split
  · refine h.bind (h.epTarget _) fun t => ?_
    split
    · exact h.stallResponse _
    · exact h.bind (h.epGetStall _ _) fun _ => h.respondStatusBuf _
  · exact h.stallResponse _

theorem clearFeature (r : Req) : Keeps R (clearFeature r) := by
  unfold Machine.clearFeature
  split
  · split
    · exact h.bind (h.notify _ _) fun _ => h.prepareStatusIn
    · exact h.stallResponse _
  split
  · split
    · refine h.bind (h.epTarget _) fun t => ?_
      split
      · exact h.stallResponse _
      · exact h.bind (h.epClearStall _ _) fun _ => h.bind (h.notify _ _) fun _ => h.prepareStatusIn
    · exact h.stallResponse _
  · exact h.stallResponse _

theorem setFeature (r : Req) : Keeps R (setFeature r) := by
  unfold Machine.setFeature
  split
  · split
    · exact h.bind (h.notify _ _) fun _ => h.prepareStatusIn
    · exact h.stallResponse _
  split
  · split
    · refine h.bind (h.epTarget _) fun t => ?_
      split
      · exact h.stallResponse _
      · exact h.bind (h.epSetStall _ _) fun _ => h.prepareStatusIn
    · exact h.stallResponse _
  · exact h.stallResponse _

theorem setAddress (r : Req) : Keeps R (setAddress r) :=
  h.after (fun s => h.pending s _ _) h.prepareStatusIn

theorem descLen (ty : Byte) (a : Addr) : Keeps R (descLen ty a) := by
  unfold Machine.descLen
  split
  · exact h.bind (h.memRead _) fun _ => h.pure _
  · exact h.bind (h.memRead _) fun _ => h.bind (h.memRead _) fun _ => h.pure _

theorem askDescriptor (r : Req) : Keeps R (askDescriptor r) := by
  unfold Machine.askDescriptor
  split
  · exact h.bind (h.ask _ _) fun _ => h.pure _
  split
  · exact h.bind (h.ask _ _) fun _ => h.pure _
  split
  · exact h.bind (h.ask _ _) fun _ => h.pure _
  split
  · exact h.bind (h.ask _ _) fun _ => h.pure _
  · exact h.pure _

theorem getDescriptor (r : Req) : Keeps R (getDescriptor r) := by
  refine h.bind (h.askDescriptor r) fun d => ?_
  split
  · exact h.stallResponse _
  · split
    · exact h.stallResponse _
    · exact h.bind (h.descLen _ _) fun _ => h.bind h.readSetup fun _ => h.prepareDataIn _ _

theorem getConfiguration : Keeps R getConfiguration :=
  h.bind (h.askByte _ _) fun _ => h.respondStatusBuf _

theorem setConfiguration (r : Req) (hx : Extra R (.setConfiguration r)) : Keeps R (setConfiguration r) := by
  refine h.bind (h.askBool _ _) fun ok => ?_
  split
  · exact h.bind (h.notify _ _) fun _ => h.after hx h.prepareStatusIn
  · exact h.stallResponse _

theorem getInterface (r : Req) : Keeps R (getInterface r) := by
  refine h.bind (h.askBool _ _) fun ok => ?_
  split
  · exact h.bind (h.askByte _ _) fun _ => h.respondStatusBuf _
  · exact h.stallResponse _

theorem setInterface (r : Req) : Keeps R (setInterface r) := by
  refine h.bind (h.askBool _ _) fun ok => ?_
  split
  · exact h.bind (h.notify _ _) fun _ => h.prepareStatusIn
  · exact h.stallResponse _

theorem forward (c : Cap) (p : SetupPacket) : Keeps R (forward c p) := by
  refine h.read fun s => ?_
  split
  · exact h.notify _ _
  · exact h.raise _

theorem tested (b : Half) : Keeps R (tested b) := keeps_upd fun s => h.isr s _ s.isrHandled

theorem handled (b : Half) : Keeps R (handled b) := keeps_upd fun s => h.isr s s.isrPending _

theorem lookupCallback (n : Fin 8) (d : Dir) : Keeps R (lookupCallback n d) := by
  refine h.read fun s => ?_
  split
  · exact h.pure _
  · exact h.raise _

theorem forceSetup (d : Dir) (snap : Half) : Keeps R (forceSetup d snap) := by
  unfold Machine.forceSetup
  split
  · exact h.clearCtx
  · exact h.pure _

theorem ctrEp0 (d : Dir) : Keeps R (ctrEp0 d) :=
  h.bind (h.clearCompleteAt _ _) fun _ => h.bind (h.forceSetup _ _) fun _ => h.bind (h.lookupCallback _ _) fun _ =>
    keeps_upd fun s => h.due s _ _

theorem ctrEpn (n : BitVec 4) (d : Dir) : Keeps R (ctrEpn n d) := by
  unfold Machine.ctrEpn
  split
  · exact h.bind (h.clearCompleteAt _ _) fun _ => h.bind (h.lookupCallback _ _) fun _ => h.notify _ _
  · exact keeps_fault _

theorem unregisterFrom (n k : Nat) : Keeps R (unregisterFrom n k) := by
  induction k generalizing n with
  | zero => exact h.pure _
  | succ k ih => exact h.bind (h.unregisterEndpoint _) fun _ => ih _

theorem busResetHandler (hx : Extra R .evReset) : Keeps R busResetHandler :=
  h.bind (h.unregisterFrom _ _) fun _ => h.read fun _ => h.bind (h.registerEndpoint _ _ _ _ _ _ _) fun _ =>
    h.bind (h.regWrite _ _ fun s => hx.1 s _) fun _ => h.bind h.clearCtx fun _ => keeps_upd hx.2

theorem suspendHandler (hx : Extra R .evSusp) : Keeps R suspendHandler := by
  refine h.after (fun s => ?_) (h.hook _)
  split
  · exact h.refl s
  · exact hx s ‹_›

theorem wakeupHandler (hx : Extra R .evWkup) : Keeps R wakeupHandler := by
  refine h.after (fun s => ?_) (h.hook _)
  split
  · exact hx s ‹_›
  · exact h.refl s

theorem coreInit (d : Option DriverFlags) (hx : Extra R (.coreInit d)) : Keeps R (coreInit d) := by
  cases d with
  | none => exact h.raise _
  | some f =>
    unfold Machine.coreInit
    dsimp only
    split
    · exact h.after (fun s => hx.1 s f) <| h.bind (h.regWrite _ _ fun s => hx.2.1 s _) fun _ =>
        h.bind (h.regWrite _ _ fun s => hx.2.2.1 s _) fun _ => h.read fun _ =>
        h.bind (h.regWrite _ _ fun s => hx.2.2.2.1 s _) fun _ => h.after hx.2.2.2.2 <|
        h.regWrite _ _ fun s => hx.2.1 s _
    · exact h.raise _

/-! ## Every instruction -/

/-- A command call of the port. -/
theorem command {m : M Unit} (hm : Keeps R m) {s t : State}
    (e : outcome (do Machine.requireWriter; m) s = .next t) : R s t :=
  keeps_outcome (h.bind h.requireWriter fun _ => hm) e

/-- Whatever instruction runs, and whatever the SIE and the driver do inside it, the state it leaves is related to the one
it started in. -/
theorem exec (i : Instr) (hx : Extra R i) {s t : State} (e : exec i s = .next t) : R s t := by
  cases i with
  | getStatus r => exact keeps_outcome (h.dispatch _ _ (h.getStatus r)) e
  | clearFeature r => exact keeps_outcome (h.dispatch _ _ (h.clearFeature r)) e
  | setFeature r => exact keeps_outcome (h.dispatch _ _ (h.setFeature r)) e
  | setAddress r => exact keeps_outcome (h.dispatch _ _ (h.setAddress r)) e
  | getDescriptor r => exact keeps_outcome (h.dispatch _ _ (h.getDescriptor r)) e
  | setDescriptor r => exact keeps_outcome (h.dispatch _ _ (h.notify _ _)) e
  | getConfiguration r => exact keeps_outcome (h.dispatch _ _ h.getConfiguration) e
  | setConfiguration r => exact keeps_outcome (h.dispatch _ _ (h.setConfiguration r hx)) e
  | getInterface r => exact keeps_outcome (h.dispatch _ _ (h.getInterface r)) e
  | setInterface r => exact keeps_outcome (h.dispatch _ _ (h.setInterface r)) e
  | synchFrame r => exact keeps_outcome (h.dispatch _ _ (h.stallResponse _)) e
  | stdUndefined b r => exact keeps_outcome (h.dispatch _ _ (h.pure ())) e
  | classRequest b r => exact keeps_outcome (h.dispatch _ _ (h.forward _ _)) e
  | vendorRequest b r => exact keeps_outcome (h.dispatch _ _ (h.forward _ _)) e
  | reservedType b r => exact keeps_outcome (h.dispatch _ _ (h.pure ())) e
  | ctrEp0Out => exact keeps_outcome (h.bind (h.tested _) fun _ => h.ctrEp0 _) e
  | ctrEp0In => exact keeps_outcome (h.bind (h.tested _) fun _ => h.ctrEp0 _) e
  | ctrEpnOut n => exact keeps_outcome (h.bind (h.tested _) fun _ => h.ctrEpn _ _) e
  | ctrEpnIn n => exact keeps_outcome (h.bind (h.tested _) fun _ => h.ctrEpn _ _) e
  | evReset =>
    exact keeps_outcome (h.bind (h.tested _) fun _ => h.bind (h.busResetHandler hx) fun _ => h.handled _) e
  | evWkup =>
    exact keeps_outcome (h.bind (h.tested _) fun _ => h.bind (h.wakeupHandler hx) fun _ => h.handled _) e
  | evSusp =>
    exact keeps_outcome (h.bind (h.tested _) fun _ => h.bind (h.suspendHandler hx) fun _ => h.handled _) e
  | evSof => exact keeps_outcome (h.bind (h.tested _) fun _ => h.bind (h.hook _) fun _ => h.handled _) e
  | stageSetup => exact keeps_outcome (h.bind h.takeEvent fun e => h.setupStage e) e
  | stageDataIn => exact keeps_outcome (h.bind h.takeEvent fun _ => h.dataInStage) e
  | stageDataOut => exact keeps_outcome (h.bind h.takeEvent fun _ => h.dataOutStage) e
  | stageStatusIn => exact keeps_outcome (h.bind h.takeEvent fun _ => h.statusInStage hx) e
  | stageStatusOut => exact keeps_outcome (h.bind h.takeEvent fun _ => h.statusOutStage) e
  | prepareDataIn b c => exact h.command (h.prepareDataIn b c) e
  | prepareDataOut b c f => exact h.command (h.prepareDataOut b c f) e
  | prepareStatusIn => exact h.command h.prepareStatusIn e
  | pmaRead o a c => exact h.command (h.pmaRead o a c) e
  | pmaWrite a o c => exact h.command (h.pmaWrite a o c) e
  | registerEndpoint n ty x r c i o => exact h.command (h.registerEndpoint n ty x r c i o) e
  | registerEndpointTx n ty x i => exact h.command (h.registerEndpointTx n ty x i) e
  | registerEndpointRx n ty r c o => exact h.command (h.registerEndpointRx n ty r c o) e
  | registerEndpointDoubleTx n ty x y i => exact h.command (h.registerEndpointDoubleTx n ty x y i) e
  | registerEndpointDoubleRx n ty x y c o => exact h.command (h.registerEndpointDoubleRx n ty x y c o) e
  | unregisterEndpoint n => exact h.command (h.unregisterEndpoint n) e
  | coreInit d => exact keeps_outcome (h.coreInit d hx) e
  | epConfigure n ty x r c => exact h.command (h.epConfigure n ty x r c) e
  | epConfigureTx n ty x => exact h.command (h.epConfigureTx n ty x) e
  | epConfigureRx n ty r c => exact h.command (h.epConfigureRx n ty r c) e
  | epConfigureDoubleTx n ty x y => exact h.command (h.epConfigureDoubleTx n ty x y) e
  | epConfigureDoubleRx n ty x y c => exact h.command (h.epConfigureDoubleRx n ty x y c) e
  | epClearConfiguration n => exact h.command (h.epClearConfiguration n) e
  | epSetStall n d => exact h.command (h.epSetStall n d) e
  | epClearStall n d => exact h.command (h.epClearStall n d) e
  | epGetStall n d => exact h.command (h.bind (h.epGetStall n d) fun _ => h.returnValue _) e
  | epSetStatus n d st => exact h.command (h.epSetStatus n d st) e
  | epSetKind n => exact h.command (h.epSetKind n) e
  | epClearKind n => exact h.command (h.epClearKind n) e
  | epClearTransferComplete n d => exact h.command (h.bind (h.epClearTransferComplete n d) fun _ => h.returnValue _) e
  | stallEp0 c => exact h.command (h.stallResponse c) e
  | hostSetup a e' d => exact keeps_outcome (h.sieSetup a e' d) e
  | hostOut a e' d => exact keeps_outcome (h.sieOut a e' d) e
  | hostIn a e' => exact keeps_outcome (h.sieIn a e') e
  | hostSof f => exact keeps_outcome (h.sieFlag (by decide)) e
  | hostBusReset => exact keeps_outcome (keeps_upd hx) e
  | hostSuspend => exact keeps_outcome (h.sieFlag (by decide)) e
  | hostResume => exact keeps_outcome (h.sieFlag (by decide)) e

end Closed

/-! ## Every step -/

/-- What the machine's own steps do beyond the instructions: the trace, the windows and the two contexts (R32, R70, R106, R341),
the register writes of the write-back and of the foreground, and the foreground's reads (R62, R330, R341). -/
structure ClosedStep (R : State → State → Prop) : Prop extends Closed R where
  extra : ∀ i, Extra R i
  window : ∀ s w, R s { s with window := w }
  own : ∀ s q b c, R s { s with trace := q, irqMasked := b, inIsr := c }
  busData : ∀ s v, R s { s with busData := v }
  seen : ∀ s v, R s { s with seen := v }
  reg : ∀ (s : State) r w, R s (s.writeReg r w)

/-- A fetched input starts from a state related to `s`; a step of the machine's own leads to one. -/
def Leads (R : State → State → Prop) (s : State) : Fetched → Prop
  | .input _ t => R s t
  | .own (.next t) => R s t
  | .own (.fault _) => True
  | .own (.refused _) => True

namespace ClosedStep

variable (h : ClosedStep R)

include h

theorem isrEnter : Keeps R isrEnter :=
  h.after (fun s => h.own s s.trace s.irqMasked true) <| h.bind (h.regRead _) fun _ =>
    keeps_upd fun s => h.isr s _ _

theorem isrReturn : Keeps R isrReturn :=
  h.read fun _ => h.bind (h.regWrite _ _ fun s => h.reg s _ _) fun _ =>
    keeps_upd fun s => h.own s s.trace s.irqMasked false

theorem foregroundWrite (a v : Addr) : Keeps R (foregroundWrite a v) := by
  refine h.bind h.requireWriter fun _ => h.read fun s => ?_
  split
  · exact h.regWrite _ _ fun s => h.reg s _ _
  · exact keeps_refuse _

theorem foregroundRead (a : Addr) : Keeps R (foregroundRead a) := by
  refine h.read fun s => ?_
  split
  · exact h.bind (h.regRead _) fun w => keeps_upd fun t => h.busData t _
  · exact keeps_refuse _

theorem readShared (x : Shared) : Keeps R (readShared x) := by
  refine h.read fun s => ?_
  cases x with
  | pmaWord k => exact h.bind (h.pmaRead16 k) fun _ => h.pure _
  | cpuByte a => exact h.bind (h.memRead a) fun _ => h.pure _
  | setup => exact h.bind h.readSetup fun _ => h.pure _
  | _ => exact h.pure _

theorem foregroundGet (x : Shared) : Keeps R (foregroundGet x) :=
  h.bind (h.readShared x) fun _ => keeps_upd fun t => h.seen t _

theorem requireStore (a : Addr) : Keeps R (requireStore a) := by
  refine h.read fun s => ?_
  split
  · exact h.requireWriter
  · exact h.pure _

theorem foregroundStore (a : Addr) (v : Byte) : Keeps R (foregroundStore a v) :=
  h.bind (h.requireStore a) fun _ => h.memWrite _ _

/-- A step of the machine's own that runs a computation. -/
theorem own_outcome {m : M Unit} (hm : Keeps R m) {s u : State} (h0 : R s u) : Leads R s (.own (outcome m u)) := by
  cases e : outcome m u with
  | next t => exact h.trans h0 (keeps_outcome hm e)
  | fault _ => trivial
  | refused _ => trivial

theorem fetchNone (s : State) : Leads R s (fetchNone s) := by
  unfold Machine.fetchNone
  cases entryDue s with
  | true => exact h.own_outcome h.isrEnter (h.refl s)
  | false => exact h.refl s

theorem fetchItem (it : Item) {s u : State} (h0 : R s u) : Leads R s (fetchItem it u) := by
  cases it with
  | host bs => exact h0
  | event e => exact h0
  | call bs => exact h0
  | isr =>
    unfold Machine.fetchItem
    dsimp only
    cases entryDue u with
    | true => exact h.own_outcome h.isrEnter h0
    | false => trivial
  | drv d => exact h.trans h0 (h.calls u u.calls _)
  | interleave w => exact h.trans h0 (h.window u _)
  | mask => exact h.trans h0 (h.own u u.trace true u.inIsr)
  | unmask => exact h.trans h0 (h.own u u.trace false u.inIsr)
  | busWrite a v => exact h.own_outcome (h.foregroundWrite a v) h0
  | busRead a => exact h.own_outcome (h.foregroundRead a) h0
  | read x => exact h.own_outcome (h.foregroundGet x) h0
  | store a v => exact h.own_outcome (h.foregroundStore a v) h0

/-- What a step is about: its input starts from a related state, and a step of the machine's own ends in one. -/
theorem fetch (s : State) : Leads R s (fetch s) := by
  have h0 : ∀ rest, R s { s with trace := rest } := fun rest => h.own s rest s.irqMasked s.inIsr
  have h1 := h.refl s
  unfold Machine.fetch
  revert h0 h1
  cases s.fatal with
  | some c => exact fun _ _ => trivial
  | none =>
    cases s.inDispatch with
    | true =>
      cases s.setup with
      | some p => exact fun _ h1 => h1
      | none => exact fun _ _ => trivial
    | false =>
      cases s.stageDue with
      | true => exact fun _ h1 => h1
      | false =>
        cases s.inIsr with
        | true => exact fun _ h1 => h1
        | false =>
          cases s.trace with
          | nil => exact fun _ _ => h.fetchNone s
          | cons it rest => exact fun h0 _ => h.fetchItem it (h0 rest)

/-- Every step of the machine leads to a related state. -/
theorem step {s t : State} (e : step s = .next t) : R s t := by
  have hf := h.fetch s
  unfold Machine.step at e
  cases hq : Machine.fetch s with
  | own o =>
    rw [hq] at hf e
    dsimp only at e hf
    subst e
    exact hf
  | input x u =>
    rw [hq] at hf e
    dsimp only at e hf
    cases hd : decode x with
    | ok i =>
      rw [hd] at e
      exact h.trans hf (h.exec i (h.extra i) e)
    | error d =>
      rw [hd] at e
      cases d <;> try (cases e)
      · exact h.trans hf (keeps_outcome h.isrReturn e)
      · exact hf

end ClosedStep

end Sys2Proof.Machine
end

