-- ==== Sys2Proof/Laws/PerInstr.lean ====
section
/-! SUPPORT. What holds of every instruction as syntax, one lemma per constructor: the encoding has the shape of its kind. -/

namespace Sys2Proof.Laws

/-- An encoded input has the shape that its kind gives it: eight bytes of a setup packet (R91), a snapshot with a tested
condition (R100), a stage below 5 (R101), an assigned command with as many argument bytes as it takes (R102), a token
whose PID starts a step of the SIE and whose header is whole (R103). -/
def shaped : Enc → Prop
  | .setup8 bs => bs.length = 8
  | .istr16 w => w &&& 0x9E00 ≠ 0
  | .stage3 w => w.toNat < 5
  | .call8 [] => False
  | .call8 (id :: as) => callArgBytes id.toNat = some as.length
  | .token bs => 3 ≤ bs.length ∧ bs.headD 0 ∈ [pidOut, pidIn, pidSof, pidSetup]
  | .event _ => True

/-- The encoding of `i` has its shape. -/
def Shape.Statement (i : Instr) : Prop := shaped (encode i)

theorem Shape.getStatus (r : Req) : Shape.Statement (.getStatus r) := rfl

theorem Shape.clearFeature (r : Req) : Shape.Statement (.clearFeature r) := rfl

theorem Shape.setFeature (r : Req) : Shape.Statement (.setFeature r) := rfl

theorem Shape.setAddress (r : Req) : Shape.Statement (.setAddress r) := rfl

theorem Shape.getDescriptor (r : Req) : Shape.Statement (.getDescriptor r) := rfl

theorem Shape.setDescriptor (r : Req) : Shape.Statement (.setDescriptor r) := rfl

theorem Shape.getConfiguration (r : Req) : Shape.Statement (.getConfiguration r) := rfl

theorem Shape.setConfiguration (r : Req) : Shape.Statement (.setConfiguration r) := rfl

theorem Shape.getInterface (r : Req) : Shape.Statement (.getInterface r) := rfl

theorem Shape.setInterface (r : Req) : Shape.Statement (.setInterface r) := rfl

theorem Shape.synchFrame (r : Req) : Shape.Statement (.synchFrame r) := rfl

theorem Shape.stdUndefined (bRequest : Byte) (r : Req) : Shape.Statement (.stdUndefined bRequest r) := rfl

theorem Shape.classRequest (bRequest : Byte) (r : Req) : Shape.Statement (.classRequest bRequest r) := rfl

theorem Shape.vendorRequest (bRequest : Byte) (r : Req) : Shape.Statement (.vendorRequest bRequest r) := rfl

theorem Shape.reservedType (bRequest : Byte) (r : Req) : Shape.Statement (.reservedType bRequest r) := rfl

theorem Shape.ctrEp0Out : Shape.Statement .ctrEp0Out := by
  show _ ≠ _
  decide

theorem Shape.ctrEp0In : Shape.Statement .ctrEp0In := by
  show _ ≠ _
  decide

theorem Shape.ctrEpnOut (n : BitVec 4) : Shape.Statement (.ctrEpnOut n) := by
  show _ ≠ _
  revert n
  decide

theorem Shape.ctrEpnIn (n : BitVec 4) : Shape.Statement (.ctrEpnIn n) := by
  show _ ≠ _
  revert n
  decide

theorem Shape.evReset : Shape.Statement .evReset := by
  show _ ≠ _
  decide

theorem Shape.evWkup : Shape.Statement .evWkup := by
  show _ ≠ _
  decide

theorem Shape.evSusp : Shape.Statement .evSusp := by
  show _ ≠ _
  decide

theorem Shape.evSof : Shape.Statement .evSof := by
  show _ ≠ _
  decide

theorem Shape.stageSetup : Shape.Statement .stageSetup := by
  show _ < _
  decide

theorem Shape.stageDataIn : Shape.Statement .stageDataIn := by
  show _ < _
  decide

theorem Shape.stageDataOut : Shape.Statement .stageDataOut := by
  show _ < _
  decide

theorem Shape.stageStatusIn : Shape.Statement .stageStatusIn := by
  show _ < _
  decide

theorem Shape.stageStatusOut : Shape.Statement .stageStatusOut := by
  show _ < _
  decide

theorem Shape.prepareDataIn (buf count : Addr) : Shape.Statement (.prepareDataIn buf count) := rfl

theorem Shape.prepareDataOut (buf count : Addr) (onComplete : Option CbId) :
    Shape.Statement (.prepareDataOut buf count onComplete) := rfl

theorem Shape.prepareStatusIn : Shape.Statement .prepareStatusIn := rfl

theorem Shape.pmaRead (offset : Half) (dst : Addr) (count : Half) : Shape.Statement (.pmaRead offset dst count) := rfl

theorem Shape.pmaWrite (src : Addr) (offset count : Half) : Shape.Statement (.pmaWrite src offset count) := rfl

theorem Shape.registerEndpoint (ep : Byte) (ty : EpType) (txAddr rxAddr rxCount : Half) (onIn onOut : Option CbId) :
    Shape.Statement (.registerEndpoint ep ty txAddr rxAddr rxCount onIn onOut) := rfl

theorem Shape.registerEndpointTx (ep : Byte) (ty : EpType) (txAddr : Half) (onIn : Option CbId) :
    Shape.Statement (.registerEndpointTx ep ty txAddr onIn) := rfl

theorem Shape.registerEndpointRx (ep : Byte) (ty : EpType) (rxAddr rxCount : Half) (onOut : Option CbId) :
    Shape.Statement (.registerEndpointRx ep ty rxAddr rxCount onOut) := rfl

theorem Shape.registerEndpointDoubleTx (ep : Byte) (ty : EpType) (addr0 addr1 : Half) (onIn : Option CbId) :
    Shape.Statement (.registerEndpointDoubleTx ep ty addr0 addr1 onIn) := rfl

theorem Shape.registerEndpointDoubleRx (ep : Byte) (ty : EpType) (addr0 addr1 rxCount : Half) (onOut : Option CbId) :
    Shape.Statement (.registerEndpointDoubleRx ep ty addr0 addr1 rxCount onOut) := rfl

theorem Shape.unregisterEndpoint (ep : Byte) : Shape.Statement (.unregisterEndpoint ep) := rfl

theorem Shape.coreInit (driver : Option DriverFlags) : Shape.Statement (.coreInit driver) := rfl

theorem Shape.epConfigure (n : Byte) (ty : EpType) (txAddr rxAddr rxCount : Half) :
    Shape.Statement (.epConfigure n ty txAddr rxAddr rxCount) := rfl

theorem Shape.epConfigureTx (n : Byte) (ty : EpType) (txAddr : Half) :
    Shape.Statement (.epConfigureTx n ty txAddr) := rfl

theorem Shape.epConfigureRx (n : Byte) (ty : EpType) (rxAddr rxCount : Half) :
    Shape.Statement (.epConfigureRx n ty rxAddr rxCount) := rfl

theorem Shape.epConfigureDoubleTx (n : Byte) (ty : EpType) (addr0 addr1 : Half) :
    Shape.Statement (.epConfigureDoubleTx n ty addr0 addr1) := rfl

theorem Shape.epConfigureDoubleRx (n : Byte) (ty : EpType) (addr0 addr1 rxCount : Half) :
    Shape.Statement (.epConfigureDoubleRx n ty addr0 addr1 rxCount) := rfl

theorem Shape.epClearConfiguration (n : Byte) : Shape.Statement (.epClearConfiguration n) := rfl

theorem Shape.epSetStall (n : Byte) (dir : Dir) : Shape.Statement (.epSetStall n dir) := rfl

theorem Shape.epClearStall (n : Byte) (dir : Dir) : Shape.Statement (.epClearStall n dir) := rfl

theorem Shape.epGetStall (n : Byte) (dir : Dir) : Shape.Statement (.epGetStall n dir) := rfl

theorem Shape.epSetStatus (n : Byte) (dir : Dir) (st : Stat) : Shape.Statement (.epSetStatus n dir st) := rfl

theorem Shape.epSetKind (n : Byte) : Shape.Statement (.epSetKind n) := rfl

theorem Shape.epClearKind (n : Byte) : Shape.Statement (.epClearKind n) := rfl

theorem Shape.epClearTransferComplete (n : Byte) (dir : Dir) : Shape.Statement (.epClearTransferComplete n dir) := rfl

theorem Shape.stallEp0 (cause : Byte) : Shape.Statement (.stallEp0 cause) := rfl

theorem Shape.hostSetup (addr : BitVec 7) (ep : BitVec 4) (data : List Byte) :
    Shape.Statement (.hostSetup addr ep data) := ⟨Nat.le_add_left 3 data.length, by
  show pidSetup ∈ _
  decide⟩

theorem Shape.hostOut (addr : BitVec 7) (ep : BitVec 4) (data : List Byte) :
    Shape.Statement (.hostOut addr ep data) := ⟨Nat.le_add_left 3 data.length, by
  show pidOut ∈ _
  decide⟩

theorem Shape.hostIn (addr : BitVec 7) (ep : BitVec 4) : Shape.Statement (.hostIn addr ep) := ⟨Nat.le_refl 3, by
  show pidIn ∈ _
  decide⟩

theorem Shape.hostSof (frame : BitVec 11) : Shape.Statement (.hostSof frame) := ⟨Nat.le_refl 3, by
  show pidSof ∈ _
  decide⟩

theorem Shape.hostBusReset : Shape.Statement .hostBusReset := True.intro

theorem Shape.hostSuspend : Shape.Statement .hostSuspend := True.intro

theorem Shape.hostResume : Shape.Statement .hostResume := True.intro

end Sys2Proof.Laws
end

