-- ==== Sys2Proof/Laws/Runs.lean ====
section
/-! SUPPORT. Runs (R387): where they start, that they end in one state at most, and what is never an end. -/

namespace Sys2Proof.Machine

variable {duty : HostDuty} {s t u : State}

/-- The power-on state is a launch state (R387). -/
theorem PowerOn.launch (h : PowerOn s) : Launch s := by
  rw [Launch, h.1]
  exact ⟨rfl, rfl, rfl⟩

/-- A halted state ends no run (R387). -/
theorem not_ended_of_fatal {c : FatalCause} (h : s.fatal = some c) : ¬ Ended duty s := by
  rintro ⟨h0, _⟩
  rw [h] at h0
  cases h0

/-- A state in which the host has a step to take ends no run (R387 (e)). -/
theorem not_ended_of_duty {k : Token} (h : duty s k) : ¬ Ended duty s :=
  fun e => e.2.2.2.2.2 k h

/-- An end under a duty is an end under a lighter one. -/
theorem Ended.lighter {duty' : HostDuty} (hd : ∀ k, duty' s k → duty s k) (h : Ended duty s) : Ended duty' s :=
  ⟨h.1, h.2.1, h.2.2.1, h.2.2.2.1, h.2.2.2.2.1, fun k hk => h.2.2.2.2.2 k (hd k hk)⟩

/-- A run has one end: the first state that it may end in. -/
theorem RunEnds.unique {n m : Nat} (h : RunEnds duty s n t) (k : RunEnds duty s m u) : n = m ∧ t = u := by
  have hn : n = m := by
    rcases Nat.lt_trichotomy n m with hlt | he | hgt
    · exact absurd h.2.1 (k.2.2 n t hlt h.1)
    · exact he
    · exact absurd k.2.1 (h.2.2 m u hgt k.1)
  subst hn
  exact ⟨rfl, Option.some.inj (h.1.symm.trans k.1)⟩

/-- A run that may end where it starts ends there. -/
theorem RunEnds.start (h : Ended duty s) : RunEnds duty s 0 s :=
  ⟨rfl, h, fun _ _ hk => absurd hk (Nat.not_lt_zero _)⟩

end Sys2Proof.Machine
end

