-- ==== Sys2Proof/Tests/Slice0.lean ====
section
/-! SUPPORT. The model's own tests: ill-formed terms refused, one word per constructor written out from the spec's encodings,
the spec's worked examples as single steps (the example or vector is named at each), and for every statement with hypotheses
a state and operands that meet them, clause by clause. -/

namespace Sys2Proof.Machine.Tests

-- The tests are checked one after another: many kernel evaluations at once would run out of threads.
set_option Elab.async false

/-! ## Helpers -/

/-- The outcome is a next state with a property. -/
def after (o : Host.Outcome State Fault Refusal) (p : State → Bool) : Bool :=
  match o with
  | .next t => p t
  | _ => false

/-- The outcome is the fault. -/
def faults (o : Host.Outcome State Fault Refusal) (f : Fault) : Bool :=
  match o with
  | .fault g => g == f
  | _ => false

/-- The outcome is the refusal. -/
def refuses (o : Host.Outcome State Fault Refusal) (r : Refusal) : Bool :=
  match o with
  | .refused g => g == r
  | _ => false

/-- Is the input decoded to the instruction? -/
def reads (e : Enc) (i : Instr) : Bool :=
  match decode e with
  | .ok j => j == i
  | .error _ => false

/-- A packet memory or CPU memory with bytes at an address. -/
def mem (a : Nat) (bs : List Byte) : Memory := Memory.writeBytes [] a bs

/-- Endpoint 0's descriptor as `register_endpoint` leaves it (V31): buffers at 0x80 and 0x40, `COUNT_RX` with a count. -/
def bd0 (count : Byte) : Memory := mem 0 [0x80, 0x00, 0x00, 0x00, 0x40, 0x00, count, 0x84]

/-- The interrupt masked, endpoint 0's descriptor and the first three endpoint registers as given. -/
def wr (r0 r1 r2 : Half) : State :=
  { State.reset with irqMasked := true, epr := #v[r0, r1, r2, 0, 0, 0, 0, 0], pma := bd0 0 }

/-- A dispatch of a packet running, nothing answered yet, `EPR[0] = 0x2A20` as after a SETUP. -/
def disp (p : SetupPacket) : State := { wr 0x2A20 0 0 with setup := some p, inDispatch := true }

/-- A device state with `EPR[0] = 0x2A20` as after a SETUP, in an invocation. -/
def dev (d : DevState) : State :=
  { wr 0x2A20 0x0011 0x3002 with irqMasked := false, inIsr := true, dev := { State.reset.dev with state := d } }

/-- The driver answers a capability with a word and a count, and does nothing else. -/
def ans (c : Cap) (a n : Addr) : DrvAnswer := { callee := .cap c, a := a, n := n, acts := [] }

/-- A request's free fields. -/
def rq (dir : Bool) (recip : BitVec 5) (v i l : Half) : Req := { dir := dir, recip := recip, wValue := v, wIndex := i, wLength := l }

/-- A configured device with the address 5 enabled and registers as given. -/
def host (r0 : Half) : State := { wr r0 0 0 with daddr := 0x85 }

/-! ## WellFormed: an ill-formed term for each check -/

theorem test_wf_stdUndefined : (Instr.stdUndefined 6 (rq true 0 0 0 0)).wf = false := by decide
theorem test_wf_ctrEpnOut : (Instr.ctrEpnOut 0).wf = false := by decide
theorem test_wf_ctrEpnIn : (Instr.ctrEpnIn 0).wf = false := by decide
theorem test_wf_stallEp0 : (Instr.stallEp0 0).wf = false ∧ (Instr.stallEp0 13).wf = false := by decide
theorem test_wf_prepareDataOut : (Instr.prepareDataOut 0 0 (some 0)).wf = false := by decide
theorem test_wf_registerEndpoint_in : (Instr.registerEndpoint 0 .control 0 0 0 (some 0) none).wf = false := by decide
theorem test_wf_registerEndpoint_out : (Instr.registerEndpoint 0 .control 0 0 0 none (some 0)).wf = false := by decide
theorem test_wf_registerEndpointTx : (Instr.registerEndpointTx 1 .bulk 0 (some 0)).wf = false := by decide
theorem test_wf_registerEndpointRx : (Instr.registerEndpointRx 1 .bulk 0 0 (some 0)).wf = false := by decide
theorem test_wf_registerEndpointDoubleTx : (Instr.registerEndpointDoubleTx 1 .bulk 0 0 (some 0)).wf = false := by decide
theorem test_wf_registerEndpointDoubleRx : (Instr.registerEndpointDoubleRx 1 .bulk 0 0 0 (some 0)).wf = false := by decide

/-! ## Decoding, SETUP8: the bytes of R91 with the codes of R93 -/

theorem test_decode_getStatus :
    reads (.setup8 [0x82, 0x00, 0x00, 0x00, 0x81, 0x00, 0x02, 0x00]) (.getStatus (rq true 2 0 0x0081 2)) = true := by decide
theorem test_decode_clearFeature :
    reads (.setup8 [0x02, 0x01, 0x00, 0x00, 0x81, 0x00, 0x00, 0x00]) (.clearFeature (rq false 2 0 0x0081 0)) = true := by decide
theorem test_decode_setFeature :
    reads (.setup8 [0x00, 0x03, 0x01, 0x00, 0x00, 0x00, 0x00, 0x00]) (.setFeature (rq false 0 1 0 0)) = true := by decide
theorem test_decode_setAddress :
    reads (.setup8 [0x00, 0x05, 0x05, 0x00, 0x00, 0x00, 0x00, 0x00]) (.setAddress (rq false 0 5 0 0)) = true := by decide
theorem test_decode_getDescriptor :
    reads (.setup8 [0x80, 0x06, 0x01, 0x03, 0x09, 0x04, 0xFF, 0x00])
      (.getDescriptor (rq true 0 0x0301 0x0409 0x00FF)) = true := by decide
theorem test_decode_setDescriptor :
    reads (.setup8 [0x00, 0x07, 0x00, 0x03, 0x09, 0x04, 0x10, 0x00])
      (.setDescriptor (rq false 0 0x0300 0x0409 0x0010)) = true := by decide
theorem test_decode_getConfiguration :
    reads (.setup8 [0x80, 0x08, 0x00, 0x00, 0x00, 0x00, 0x01, 0x00]) (.getConfiguration (rq true 0 0 0 1)) = true := by decide
theorem test_decode_setConfiguration :
    reads (.setup8 [0x00, 0x09, 0x01, 0x00, 0x00, 0x00, 0x00, 0x00]) (.setConfiguration (rq false 0 1 0 0)) = true := by decide
theorem test_decode_getInterface :
    reads (.setup8 [0x81, 0x0A, 0x00, 0x00, 0x02, 0x00, 0x01, 0x00]) (.getInterface (rq true 1 0 2 1)) = true := by decide
theorem test_decode_setInterface :
    reads (.setup8 [0x01, 0x0B, 0x01, 0x00, 0x01, 0x00, 0x00, 0x00]) (.setInterface (rq false 1 1 1 0)) = true := by decide
theorem test_decode_synchFrame :
    reads (.setup8 [0x82, 0x0C, 0x00, 0x00, 0x81, 0x00, 0x02, 0x00]) (.synchFrame (rq true 2 0 0x0081 2)) = true := by decide
theorem test_decode_stdUndefined :
    reads (.setup8 [0x80, 0x02, 0x34, 0x12, 0x00, 0x00, 0x00, 0x00])
      (.stdUndefined 0x02 (rq true 0 0x1234 0 0)) = true := by decide
theorem test_decode_classRequest :
    reads (.setup8 [0x21, 0x20, 0x00, 0x00, 0x00, 0x00, 0x07, 0x00]) (.classRequest 0x20 (rq false 1 0 0 7)) = true := by decide
theorem test_decode_vendorRequest :
    reads (.setup8 [0xC0, 0x06, 0x00, 0x00, 0x04, 0x00, 0x28, 0x00]) (.vendorRequest 0x06 (rq true 0 0 4 0x28)) = true := by decide
theorem test_decode_reservedType :
    reads (.setup8 [0x60, 0x00, 0x00, 0x00, 0x00, 0x00, 0x00, 0x00]) (.reservedType 0x00 (rq false 0 0 0 0)) = true := by decide

/-! ## Decoding, ISTR16 (R100) and STAGE3 (R22) -/

theorem test_decode_ctrEp0Out : reads (.istr16 0x8C10) .ctrEp0Out = true := by decide
theorem test_decode_ctrEp0In : reads (.istr16 0x8000) .ctrEp0In = true := by decide
theorem test_decode_ctrEpnOut : reads (.istr16 0x9E17) (.ctrEpnOut 7) = true := by decide
theorem test_decode_ctrEpnIn : reads (.istr16 0x8001) (.ctrEpnIn 1) = true := by decide
theorem test_decode_evReset : reads (.istr16 0x1E00) .evReset = true := by decide
theorem test_decode_evWkup : reads (.istr16 0x1A00) .evWkup = true := by decide
theorem test_decode_evSusp : reads (.istr16 0x0A00) .evSusp = true := by decide
theorem test_decode_evSof : reads (.istr16 0x0300) .evSof = true := by decide
theorem test_decode_stageSetup : reads (.stage3 0b000) .stageSetup = true := by decide
theorem test_decode_stageDataIn : reads (.stage3 0b001) .stageDataIn = true := by decide
theorem test_decode_stageDataOut : reads (.stage3 0b010) .stageDataOut = true := by decide
theorem test_decode_stageStatusIn : reads (.stage3 0b011) .stageStatusIn = true := by decide
theorem test_decode_stageStatusOut : reads (.stage3 0b100) .stageStatusOut = true := by decide

/-! ## Decoding, CALL8: the ids of R102, the argument bytes as log 3 lays them out -/

theorem test_decode_prepareDataIn :
    reads (.call8 [0x01, 0x00, 0x01, 0x00, 0x08, 0x12, 0x00, 0x00, 0x00]) (.prepareDataIn 0x08000100 18) = true := by decide
theorem test_decode_prepareDataOut :
    reads (.call8 [0x02, 0x00, 0x02, 0x00, 0x20, 0x07, 0x00, 0x00, 0x00, 0x09, 0x00])
      (.prepareDataOut 0x20000200 7 (some 9)) = true := by decide
theorem test_decode_prepareStatusIn : reads (.call8 [0x03]) .prepareStatusIn = true := by decide
theorem test_decode_pmaRead :
    reads (.call8 [0x04, 0x40, 0x00, 0x00, 0x02, 0x00, 0x20, 0x03, 0x01]) (.pmaRead 0x0040 0x20000200 0x0103) = true := by decide
theorem test_decode_pmaWrite :
    reads (.call8 [0x05, 0x00, 0x02, 0x00, 0x20, 0x80, 0x00, 0x03, 0x01]) (.pmaWrite 0x20000200 0x0080 0x0103) = true := by decide
theorem test_decode_registerEndpoint :
    reads (.call8 [0x06, 0x00, 0x01, 0x80, 0x00, 0x40, 0x00, 0x40, 0x01, 0x01, 0x00, 0x00, 0x00])
      (.registerEndpoint 0 .control 0x0080 0x0040 0x0140 (some 1) none) = true := by decide
theorem test_decode_registerEndpointTx :
    reads (.call8 [0x07, 0x01, 0x03, 0xC0, 0x00, 0x05, 0x00]) (.registerEndpointTx 1 .interrupt 0x00C0 (some 5)) = true := by
  decide
theorem test_decode_registerEndpointRx :
    reads (.call8 [0x08, 0x02, 0x00, 0x00, 0x01, 0x40, 0x00, 0x05, 0x00])
      (.registerEndpointRx 2 .bulk 0x0100 0x0040 (some 5)) = true := by decide
theorem test_decode_registerEndpointDoubleTx :
    reads (.call8 [0x09, 0x01, 0x02, 0x00, 0x01, 0x40, 0x01, 0x05, 0x00])
      (.registerEndpointDoubleTx 1 .isochronous 0x0100 0x0140 (some 5)) = true := by decide
theorem test_decode_registerEndpointDoubleRx :
    reads (.call8 [0x0A, 0x02, 0x00, 0x00, 0x01, 0x40, 0x01, 0x40, 0x00, 0x05, 0x00])
      (.registerEndpointDoubleRx 2 .bulk 0x0100 0x0140 0x0040 (some 5)) = true := by decide
theorem test_decode_unregisterEndpoint : reads (.call8 [0x0B, 0x07]) (.unregisterEndpoint 7) = true := by decide
theorem test_decode_coreInit :
    reads (.call8 [0x0C, 0xFF, 0xFF, 0x01, 0x80]) (.coreInit (some 0x1FFFF)) = true
      ∧ reads (.call8 [0x0C, 0x00, 0x00, 0x00, 0x00]) (.coreInit none) = true := by decide
theorem test_decode_epConfigure :
    reads (.call8 [0x10, 0x00, 0x01, 0x80, 0x00, 0x40, 0x00, 0x08, 0x01])
      (.epConfigure 0 .control 0x0080 0x0040 0x0108) = true := by decide
theorem test_decode_epConfigureTx :
    reads (.call8 [0x11, 0x01, 0x03, 0xC0, 0x01]) (.epConfigureTx 1 .interrupt 0x01C0) = true := by decide
theorem test_decode_epConfigureRx :
    reads (.call8 [0x12, 0x02, 0x00, 0x00, 0x01, 0x40, 0x00]) (.epConfigureRx 2 .bulk 0x0100 0x0040) = true := by decide
theorem test_decode_epConfigureDoubleTx :
    reads (.call8 [0x13, 0x01, 0x00, 0x00, 0x01, 0x40, 0x01]) (.epConfigureDoubleTx 1 .bulk 0x0100 0x0140) = true := by decide
theorem test_decode_epConfigureDoubleRx :
    reads (.call8 [0x14, 0x02, 0x00, 0x00, 0x01, 0x40, 0x01, 0x40, 0x00])
      (.epConfigureDoubleRx 2 .bulk 0x0100 0x0140 0x0040) = true := by decide
theorem test_decode_epClearConfiguration : reads (.call8 [0x15, 0x02]) (.epClearConfiguration 2) = true := by decide
theorem test_decode_epSetStall : reads (.call8 [0x16, 0x01, 0x01]) (.epSetStall 1 .dirIn) = true := by decide
theorem test_decode_epClearStall : reads (.call8 [0x17, 0x01, 0x00]) (.epClearStall 1 .dirOut) = true := by decide
theorem test_decode_epGetStall : reads (.call8 [0x18, 0x00, 0x01]) (.epGetStall 0 .dirIn) = true := by decide
theorem test_decode_epSetStatus : reads (.call8 [0x19, 0x00, 0x01, 0x02]) (.epSetStatus 0 .dirIn .nak) = true := by decide
theorem test_decode_epSetKind : reads (.call8 [0x1A, 0x00]) (.epSetKind 0) = true := by decide
theorem test_decode_epClearKind : reads (.call8 [0x1B, 0x06]) (.epClearKind 6) = true := by decide
theorem test_decode_epClearTransferComplete :
    reads (.call8 [0x1C, 0x00, 0x00]) (.epClearTransferComplete 0 .dirOut) = true := by decide
/-- R321's labels are 1 to 12. -/
theorem test_decode_stallEp0 :
    reads (.call8 [0x20, 0x03]) (.stallEp0 3) = true ∧ reads (.call8 [0x20, 0x0C]) (.stallEp0 12) = true
      ∧ refuses (step { State.reset with trace := [.call [0x20, 0x0D]] }) .malformedRecord = true := by decide

/-! ## Decoding, TOKEN: the PIDs of R103 and the bus events -/

theorem test_decode_hostSetup : reads (.token [0x2D, 0x05, 0x00, 0x80, 0x06]) (.hostSetup 5 0 [0x80, 0x06]) = true := by decide
theorem test_decode_hostOut : reads (.token [0xE1, 0x7F, 0x0F]) (.hostOut 0x7F 15 []) = true := by decide
theorem test_decode_hostIn : reads (.token [0x69, 0x05, 0x01]) (.hostIn 5 1) = true := by decide
theorem test_decode_hostSof : reads (.token [0xA5, 0xFF, 0x07]) (.hostSof 0x7FF) = true := by decide
theorem test_decode_hostBusReset : reads (.event .busReset) .hostBusReset = true := by decide
theorem test_decode_hostSuspend : reads (.event .suspend) .hostSuspend = true := by decide
theorem test_decode_hostResume : reads (.event .resume) .hostResume = true := by decide

/-! ## The packer: V7, V3, V8 to V10 of spec/95 -/

theorem test_pmaRead_V7 :
    after (exec (.pmaRead 0x0040 0x20000200 3) { wr 0 0 0 with pma := mem 0x40 [0x80, 0x06, 0x00, 0x01] })
      (fun t => t.cpu.bytes 0x20000200 4 == [0x80, 0x06, 0x00, 0x00]) = true := by decide +kernel
theorem test_pmaWrite_V3 :
    after (exec (.pmaWrite 0x20000200 0x0080 2) { wr 0 0 0 with cpu := mem 0x20000200 [0x11, 0x22, 0x33] })
      (fun t => t.pma.bytes 0x80 3 == [0x11, 0x22, 0x00]) = true := by decide +kernel
theorem test_pmaWrite_V8_V9_V10 :
    faults (exec (.pmaWrite 0x20000200 0x0081 2) (wr 0 0 0)) .pmaMisaligned = true
      ∧ faults (exec (.pmaWrite 0x20000200 0x03FE 4) (wr 0 0 0)) .pmaBounds = true
      ∧ after (exec (.pmaWrite 0x20000200 0x03FE 2) (wr 0 0 0)) (fun _ => true) = true := by decide +kernel

/-! ## Endpoint registers: V20 to V38 of spec/95 -/

theorem test_epSetStall_V20_V21 :
    after (exec (.epSetStall 0 .dirOut) (wr 0x3220 0 0)) (fun t => t.epr[0] == 0x1220) = true
      ∧ after (exec (.epSetStall 1 .dirIn) (wr 0x3220 0 0)) (fun t => t == wr 0x3220 0 0) = true := by decide +kernel
theorem test_epClearStall_V22_V23 :
    after (exec (.epClearStall 1 .dirIn) (wr 0x3220 0x0051 0)) (fun t => t.epr[1] == 0x0021) = true
      ∧ after (exec (.epClearStall 0 .dirIn) (wr 0x3220 0 0)) (fun t => t == wr 0x3220 0 0) = true := by decide +kernel
theorem test_epGetStall_V24 :
    after (exec (.epGetStall 0 .dirOut) (wr 0x1220 0 0)) (fun t => t.ret == 1) = true
      ∧ after (exec (.epGetStall 0 .dirIn) (wr 0x1220 0 0)) (fun t => t.ret == 0) = true := by decide +kernel
theorem test_epSetStatus_V25 :
    after (exec (.epSetStatus 0 .dirIn .valid) (wr 0x2A20 0 0)) (fun t => t.epr[0] == 0x2A30) = true := by decide +kernel
theorem test_epSetKind_V26 : after (exec (.epSetKind 0) (wr 0x2A20 0 0)) (fun t => t.epr[0] == 0x2B20) = true := by decide +kernel
theorem test_epClearKind_V27 : after (exec (.epClearKind 0) (wr 0x2320 0 0)) (fun t => t.epr[0] == 0x2220) = true := by decide +kernel
theorem test_epClearTransferComplete_V28_V29 :
    after (exec (.epClearTransferComplete 0 .dirOut) (wr 0xAA20 0 0)) (fun t => t.epr[0] == 0x2A20 && t.ret == 0xAA20) = true
      ∧ after (exec (.epClearTransferComplete 0 .dirIn) (wr 0x2AA0 0 0)) (fun t => t.epr[0] == 0x2A20) = true := by decide +kernel
theorem test_epClearConfiguration_V30 :
    after (exec (.epClearConfiguration 2) (wr 0 0 0x30A2)) (fun t => t.epr[2] == 0) = true := by decide +kernel
theorem test_epConfigure_V31 :
    after (exec (.epConfigure 0 .control 0x0080 0x0040 64) { wr 0 0 0 with pma := [] })
      (fun t => t.epr[0] == 0x3220 && t.pma.bytes 0 8 == [0x80, 0x00, 0x00, 0x00, 0x40, 0x00, 0x00, 0x84]) = true := by decide +kernel
theorem test_epConfigureTx_V32 :
    after (exec (.epConfigureTx 1 .bulk 0x00C0) (wr 0 0 0)) (fun t => t.epr[1] == 0x0021 && t.pma.word 4 == 0x00C0) = true
      ∧ after (exec (.epConfigureTx 1 .interrupt 0x00C0) (wr 0 0 0)) (fun t => t.epr[1] == 0x0621) = true := by decide +kernel
theorem test_epConfigureRx_V33 :
    after (exec (.epConfigureRx 2 .bulk 0x0100 64) (wr 0 0 0))
      (fun t => t.epr[2] == 0x3002 && t.pma.word 10 == 0x0100 && t.pma.word 11 == 0x8400) = true := by decide +kernel
theorem test_epConfigureDoubleTx_V34 :
    after (exec (.epConfigureDoubleTx 1 .bulk 0x0100 0x0140) (wr 0 0 0)) (fun t => t.epr[1] == 0x0121) = true := by decide +kernel
theorem test_epConfigureDoubleRx_V35 :
    after (exec (.epConfigureDoubleRx 2 .bulk 0x0100 0x0140 64) (wr 0 0 0))
      (fun t => t.epr[2] == 0x3102 && t.pma.word 8 == 0x0100 && t.pma.word 9 == 0x8400 && t.pma.word 10 == 0x0140
        && t.pma.word 11 == 0x8400) = true := by decide +kernel

/-- The host takes the IN between the snapshot and the write (V37). -/
theorem test_race_V37 :
    after (exec (.epSetKind 0) { host 0x2A30 with window := [[], [.inn 5 0]] }) (fun t => t.epr[0] == 0x2BE0) = true := by decide +kernel

/-- An OUT arrives between the snapshot and the write (V38).  `DTOG_RX` stays as the SIE left it: the written word has bit 14
at 0 (R152, R154), although R371 (b) speaks of a flip back (log 33). -/
theorem test_race_V38 :
    after (exec (.epSetStatus 0 .dirOut .nak)
      { host 0x3220 with pma := mem 4 [0x40, 0x00, 0x00, 0x84], window := [[], [.out 5 0 [0xAA]]] })
      (fun t => t.epr[0] == 0xF220) = true := by decide +kernel

/-! ## The endpoint table: V40 to V47 of spec/95 -/

theorem test_registerEndpoint :
    after (exec (.registerEndpoint 0 .control 0x0080 0x0040 64 (some 1) (some 1)) (wr 0 0 0))
      (fun t => t.epr[0] == 0x3220 && t.ept[0].mode == .single) = true
      ∧ after (exec (.registerEndpoint 8 .bulk 0 0 0 none none) (wr 0 0 0)) (fun t => t.fatal == some .epRange) = true
      ∧ after (exec (.registerEndpoint 1 .control 0 0 0 none none) (wr 0 0 0)) (fun t => t.fatal == some .epType) = true
      ∧ after (exec (.registerEndpoint 1 .isochronous 0 0 0 none none) (wr 0 0 0))
          (fun t => t.fatal == some .epType) = true := by decide +kernel
theorem test_registerEndpointTx :
    after (exec (.registerEndpointTx 1 .bulk 0x0100 (some 5)) (wr 0 0 0))
      (fun t => t.epr[1] == 0x0021 && t.ept[1].mode == .txOnly && t.ept[1].inCb == some 5) = true
      ∧ after (exec (.registerEndpointTx 1 .bulk 0x0101 (some 5)) (wr 0 0 0)) (fun t => t.fatal == some .pmaRange) = true
      ∧ after (exec (.registerEndpointTx 1 .bulk 0x0100 none) (wr 0 0 0))
          (fun t => t.fatal == some .nullCallback) = true := by decide +kernel
theorem test_registerEndpointRx :
    after (exec (.registerEndpointRx 2 .bulk 0x0100 64 (some 5)) (wr 0 0 0))
      (fun t => t.epr[2] == 0x3002 && t.ept[2].outCb == some 5) = true
      ∧ after (exec (.registerEndpointRx 2 .bulk 0x03F0 64 (some 5)) (wr 0 0 0))
          (fun t => t.fatal == some .pmaRange) = true := by decide +kernel
theorem test_registerEndpointDoubleTx :
    after (exec (.registerEndpointDoubleTx 1 .bulk 0x0100 0x0140 (some 5)) (wr 0 0 0))
      (fun t => t.epr[1] == 0x0121 && t.ept[1].mode == .doubleTx) = true := by decide +kernel
theorem test_registerEndpointDoubleRx :
    after (exec (.registerEndpointDoubleRx 2 .bulk 0x0100 0x0140 64 (some 5)) (wr 0 0 0))
      (fun t => t.epr[2] == 0x3102 && t.ept[2].mode == .doubleRx) = true := by decide +kernel
theorem test_unregisterEndpoint_V47 :
    after (exec (.unregisterEndpoint 1) (wr 0 0x0021 0)) (fun t => t.epr[1] == 0 && t.ept[1] == EptEntry.unregistered) = true := by
  decide

/-- R46's table in section 2.4 of spec/95. -/
theorem test_encodeRx :
    encodeRx 0 = 0x0000 ∧ encodeRx 1 = 0x0400 ∧ encodeRx 18 = 0x2400 ∧ encodeRx 62 = 0x7C00 ∧ encodeRx 63 = 0x8400
      ∧ encodeRx 65 = 0x8800 ∧ encodeRx 512 = 0xBC00 ∧ encodeRx 1024 = 0xFC00
      ∧ rxSize 0xFC00 = 1024 ∧ rxSize 0x8800 = 96 ∧ rxSize 0x2400 = 18 := by decide +kernel

/-! ## The control machine -/

/-- R214's example. -/
theorem test_prepareDataIn :
    after (exec (.prepareDataIn 0x08000100 18)
        { disp ((rq true 0 0x0100 0 64).packet 0 6) with cpu := mem 0x08000100 [0x12, 0x01, 0x00, 0x02] })
      (fun t => t.epr[0] == 0x2A30 && t.pma.word 1 == 18 && t.pma.bytes 0x80 4 == [0x12, 0x01, 0x00, 0x02]
        && t.ctx == { buffer := 0x08000112, remaining := 0, stage := 1, completion := none }) = true := by decide +kernel
/-- R219's example. -/
theorem test_prepareDataOut :
    after (exec (.prepareDataOut 0x20000200 7 (some 9)) (disp ((rq false 1 0 0 7).packet 1 0x20)))
      (fun t => t.epr[0] == 0x3A20
        && t.ctx == { buffer := 0x20000200, remaining := 7, stage := 2, completion := some 9 }) = true := by decide +kernel
/-- R223's example. -/
theorem test_prepareStatusIn :
    after (exec .prepareStatusIn (disp ((rq false 0 5 0 0).packet 0 5)))
      (fun t => t.epr[0] == 0x2A30 && t.ctx.stage == 3 && t.responded) = true := by decide +kernel
/-- R231's example. -/
theorem test_stallEp0 :
    after (exec (.stallEp0 3) (disp ((rq false 0 5 0 0).packet 0 5)))
      (fun t => t.epr[0] == 0x1A10 && t.ctx.stage == 0 && t.stalls == [3]) = true
      ∧ faults (exec (.stallEp0 3) (wr 0x2A20 0 0)) .prepareContext = true := by decide +kernel
/-- R211's example, and V50: a packet of another length. -/
theorem test_stageSetup :
    after (exec .stageSetup { dev .default with
        ev := { dir := .dirOut, setup := true }
        pma := (bd0 8).writeBytes 0x40 [0x80, 0x06, 0x00, 0x01, 0x00, 0x00, 0x40, 0x00] })
      (fun t => t.setup == some ((rq true 0 0x0100 0 64).packet 0 6) && t.inDispatch && t.epr[0] == 0x2A20) = true
      ∧ after (exec .stageSetup { dev .default with
          ev := { dir := .dirOut, setup := true }
          pma := bd0 6 })
        (fun t => t.setup == none && t.epr[0] == 0x1A10 && t.stalls == [2]) = true := by decide +kernel
/-- V53, its second chunk, and V54. -/
theorem test_stageDataIn :
    after (exec .stageDataIn { dev .configured with
        ctx := { buffer := 0x08000240, remaining := 36, stage := 1, completion := none } })
      (fun t => t.epr[0] == 0x2A30 && t.pma.word 1 == 0x0024 && t.ctx.remaining == 0) = true
      ∧ after (exec .stageDataIn { dev .configured with
          ctx := { buffer := 0x08000240, remaining := 0, stage := 1, completion := none } })
        (fun t => t.epr[0] == 0x3B20 && t.ctx.stage == 4) = true := by decide +kernel
/-- V58. -/
theorem test_stageDataOut :
    after (exec .stageDataOut { wr 0x2220 0 0 with
        ctx := { buffer := 0x20000200, remaining := 7, stage := 2, completion := some 9 }
        pma := (bd0 7).writeBytes 0x40 [1, 2, 3, 4, 5, 6, 7, 8] })
      (fun t => t.epr[0] == 0x2230 && t.cpu.bytes 0x20000200 8 == [1, 2, 3, 4, 5, 6, 7, 0]
        && t.ctx == { buffer := 0x20000207, remaining := 0, stage := 3, completion := some 9 }) = true := by decide +kernel
/-- R224's example. -/
theorem test_stageStatusIn :
    after (exec .stageStatusIn { dev .default with
        dev := { state := .default, previous := .default, addrPending := true, pendingAddr := 5 } })
      (fun t => t.daddr == 0x85 && t.dev.state == .addressed && t.epr[0] == 0x3A20) = true := by decide +kernel
/-- R226's example. -/
theorem test_stageStatusOut :
    after (exec .stageStatusOut (wr 0x2320 0 0)) (fun t => t.epr[0] == 0x3220 && t.ctx.stage == 0) = true := by decide +kernel

/-! ## Requests: V60 to V67 of spec/95 and the examples of spec/44 -/

theorem test_getStatus_V60_V61 :
    after (exec (.getStatus (rq true 0 0 0 2)) (dev .default))
      (fun t => t.epr[0] == 0x1A10 && t.calls == [] && t.stalls == [4]) = true
      ∧ after (exec (.getStatus (rq true 0 0 0 2))
          { dev .configured with answers := [ans .isSelfpowered 1 0, ans .getRemoteWakeup 0 0] })
        (fun t => t.epr[0] == 0x2A30 && t.pma.word 1 == 2 && t.pma.bytes 0x80 2 == [0x01, 0x00]
          && t.cpu.bytes 0x20000100 2 == [0x01, 0x00]) = true := by decide +kernel
/-- R256's example. -/
theorem test_clearFeature :
    after (exec (.clearFeature (rq false 2 0 0x0081 0))
        { dev .configured with epr := #v[0x2A20, 0x0051, 0, 0, 0, 0, 0, 0], answers := [ans .isEndpointValid 1 0] })
      (fun t => t.epr[1] == 0x0021 && t.epr[0] == 0x2A30) = true := by decide +kernel
/-- R257's example. -/
theorem test_setFeature :
    after (exec (.setFeature (rq false 2 0 0x0002 0)) { dev .configured with answers := [ans .isEndpointValid 1 0] })
      (fun t => t.epr[2] == 0x1002 && t.epr[0] == 0x2A30) = true := by decide +kernel
/-- R258's example. -/
theorem test_setAddress :
    after (exec (.setAddress (rq false 0 5 0 0)) (dev .default))
      (fun t => t.dev.pendingAddr == 5 && t.dev.addrPending && t.ctx.stage == 3 && t.daddr == 0) = true := by decide +kernel
/-- R259's example: `wLength = 64` sends 18 bytes, `wLength = 8` sends 8. -/
theorem test_getDescriptor :
    after (exec (.getDescriptor (rq true 0 0x0100 0 64))
        { dev .default with cpu := mem 0x08000100 [0x12, 0x01], answers := [ans .deviceDescriptor 0x08000100 18] })
      (fun t => t.pma.word 1 == 18 && t.epr[0] == 0x2A30 && !t.inDispatch) = true
      ∧ after (exec (.getDescriptor (rq true 0 0x0100 0 8))
          { dev .default with cpu := mem 0x08000100 [0x12, 0x01], answers := [ans .deviceDescriptor 0x08000100 18] })
        (fun t => t.pma.word 1 == 8) = true := by decide +kernel
/-- R261's example: the driver is called with the packet. -/
theorem test_setDescriptor :
    after (exec (.setDescriptor (rq false 0 0x0300 0x0409 16)) (dev .configured))
      (fun t => t.calls == [{ callee := .cap .setDescriptor, args := [0x0700, 0x0300, 0x0409, 16] }]
        && t.epr[0] == 0x2A20) = true := by decide +kernel
/-- R262's example. -/
theorem test_getConfiguration :
    after (exec (.getConfiguration (rq true 0 0 0 1)) { dev .configured with epr := #v[0xAA20, 0, 0, 0, 0, 0, 0, 0], answers := [ans .getConfiguration 1 0] })
      (fun t => t.epr[0] == 0xAA30 && t.ctx.remaining == 0 && t.cpu.read 0x20000100 == 1) = true := by decide +kernel
/-- R263's example. -/
theorem test_setConfiguration :
    after (exec (.setConfiguration (rq false 0 1 0 0)) { dev .addressed with answers := [ans .isConfigurationValid 1 0] })
      (fun t => t.dev.state == .configured && t.ctx.stage == 3) = true := by decide +kernel
/-- R264's example. -/
theorem test_getInterface :
    after (exec (.getInterface (rq true 1 0 0 1))
        { dev .configured with epr := #v[0xAA20, 0, 0, 0, 0, 0, 0, 0], answers := [ans .isInterfaceValid 1 0, ans .getInterface 7 0] })
      (fun t => t.epr[0] == 0xAA30 && t.ctx.remaining == 0 && t.cpu.read 0x20000100 == 7) = true := by decide +kernel
/-- R265's example. -/
theorem test_setInterface :
    after (exec (.setInterface (rq false 1 1 1 0)) { dev .configured with answers := [ans .isInterfaceValid 1 0] })
      (fun t => t.ctx.stage == 3 && t.calls.head? == some { callee := .cap .setInterface, args := [1, 1] }) = true := by decide +kernel
/-- R266's example, a reserved type and an undefined code, with the causes of R321. -/
theorem test_stalled_requests :
    after (exec (.synchFrame (rq true 2 0 0x0081 2)) (dev .configured))
      (fun t => t.epr[0] == 0x1A10 && t.stalls == [11]) = true
      ∧ after (exec (.reservedType 0 (rq false 0 0 0 0)) (dev .configured))
        (fun t => t.epr[0] == 0x1A10 && t.stalls == [3]) = true
      ∧ after (exec (.stdUndefined 2 (rq true 0 0 0 0)) (dev .configured))
        (fun t => t.epr[0] == 0x1A10 && t.stalls == [3]) = true := by decide +kernel
/-- R254's example: the driver arms the Data-Out stage. -/
theorem test_classRequest :
    after (exec (.classRequest 0x20 (rq false 1 0 0 7)) { dev .configured with
        driver := 0x10000
        answers := [{ callee := .cap .classRequest, a := 0, n := 0, acts := [.call (.prepareDataOut 0x20000200 7 (some 9))] }] })
      (fun t => t.epr[0] == 0x3A20 && t.ctx.remaining == 7) = true := by decide +kernel
/-- R321: a driver's stall has the label 12, whatever its call names. -/
theorem test_driver_stall :
    after (exec (.classRequest 0x20 (rq false 1 0 0 7)) { dev .configured with
        driver := 0x10000
        answers := [{ callee := .cap .classRequest, a := 0, n := 0, acts := [.call (.stallEp0 5)] }] })
      (fun t => t.epr[0] == 0x1A10 && t.stalls == [12]) = true := by decide +kernel
/-- R254: a null vendor callback. -/
theorem test_vendorRequest :
    after (exec (.vendorRequest 0x06 (rq true 0 0 4 0x28)) (dev .configured))
      (fun t => t.fatal == some .nullDriverCb) = true := by decide +kernel

/-! ## Events -/

/-- R331's example. -/
theorem test_ctrEp0Out :
    after (exec .ctrEp0Out { dev .default with
        epr := #v[0xAA20, 0, 0, 0, 0, 0, 0, 0]
        isrPending := 0x8010
        ept := State.reset.ept.set 0 { EptEntry.unregistered with outCb := some 1 } })
      (fun t => t.epr[0] == 0x2A20 && t.stageDue && t.ev == { dir := .dirOut, setup := true }) = true := by decide +kernel
/-- V51's first step: a stale IN completion. -/
theorem test_ctrEp0In :
    after (exec .ctrEp0In { dev .default with
        epr := #v[0x2AA0, 0, 0, 0, 0, 0, 0, 0]
        ept := State.reset.ept.set 0 { EptEntry.unregistered with inCb := some 1 } })
      (fun t => t.epr[0] == 0x2A20 && t.ev.dir == .dirIn) = true := by decide +kernel
/-- V48, and an endpoint above 7. -/
theorem test_ctrEpnOut :
    after (exec (.ctrEpnOut 1) (dev .configured)) (fun t => t.fatal == some .noHandler) = true
      ∧ faults (exec (.ctrEpnOut 8) (dev .configured)) .badEpId = true := by decide +kernel
/-- R332: the callback is invoked. -/
theorem test_ctrEpnIn :
    after (exec (.ctrEpnIn 1) { dev .configured with
        epr := #v[0x2A20, 0x00A1, 0, 0, 0, 0, 0, 0]
        ept := State.reset.ept.set 1 { EptEntry.unregistered with inCb := some 5 } })
      (fun t => t.epr[1] == 0x0021 && t.calls == [{ callee := .callback 5, args := [] }]) = true := by decide +kernel
/-- R334's example, after the SIE's part. -/
theorem test_evReset :
    after (exec .evReset { dev .configured with epr := Vector.replicate 8 0, isrPending := 0x0400 })
      (fun t => t.epr[0] == 0x3220 && t.epr[1] == 0 && t.daddr == 0x80 && t.dev.state == .default
        && t.isrHandled == 0x0400) = true := by decide +kernel
/-- R336's example, by its two steps. -/
theorem test_evSusp :
    after (exec .evSusp (dev .configured)) (fun t => t.dev.state == .suspended && t.dev.previous == .configured) = true := by decide +kernel
theorem test_evWkup :
    after (exec .evWkup { dev .suspended with dev := { State.reset.dev with state := .suspended, previous := .configured } })
      (fun t => t.dev.state == .configured) = true
      ∧ after (exec .evWkup (dev .addressed)) (fun t => t.dev.state == .addressed) = true := by decide +kernel
/-- R337: only the hook. -/
theorem test_evSof :
    after (exec .evSof { dev .configured with driver := 0x100000 })
      (fun t => t.calls == [{ callee := .cap .startOfFrame, args := [] }] && t.isrHandled == 0x0200) = true := by decide +kernel
/-- R363's writes, and a driver that lacks a required capability. -/
theorem test_coreInit :
    after (exec (.coreInit (some 0x0FFFF)) { State.reset with istr := 0x0C00 })
      (fun t => t.cntr == 0x9E00 && t.istr == 0 && t.driver == 0x0FFFF) = true
      ∧ after (exec (.coreInit (some 0x07FFF)) State.reset) (fun t => t.fatal == some .nullDriverCb) = true := by decide +kernel
/-- R330's write-back: 0xF3FF for RESET and SUSP; a flag the SIE set later survives. -/
theorem test_writeBack :
    after (step { dev .default with istr := 0x1C00, isrPending := 0x0010, isrHandled := 0x0C00 })
      (fun t => t.istr == 0x1000 && !t.inIsr) = true := by decide +kernel

/-! ## The SIE: the examples of spec/45 -/

/-- R292's example: the packet and its count; the toggles are drawn. -/
theorem test_hostSetup :
    after (exec (.hostSetup 5 0 [0x80, 0x06, 0x00, 0x01, 0x00, 0x00, 0x40, 0x00])
        { host 0x3220 with pma := mem 4 [0x40, 0x00, 0x00, 0x84] })
      (fun t => t.pma.bytes 0x40 8 == [0x80, 0x06, 0x00, 0x01, 0x00, 0x00, 0x40, 0x00] && t.pma.word 3 == 0x8408
        && t.bus == [.ack]) = true := by decide +kernel
/-- R293's example: the zero-length status packet; `DTOG_RX` flips. -/
theorem test_hostOut :
    after (exec (.hostOut 5 0 []) { host 0x3B20 with pma := mem 4 [0x40, 0x00, 0x12, 0x84] })
      (fun t => t.epr[0] == 0xE320 && t.pma.word 3 == 0x8400 && t.bus == [.ack]) = true
      ∧ after (exec (.hostOut 5 0 [1]) { host 0x3B20 with pma := mem 4 [0x40, 0x00, 0x12, 0x84] })
        (fun t => t.bus == [.stall]) = true := by decide +kernel
/-- R294's example; `DTOG_TX` flips. -/
theorem test_hostIn :
    after (exec (.hostIn 5 0) { host 0x2A30 with pma := (mem 0x80 [0x12, 0x01]).writeBytes 0 [0x80, 0x00, 0x02, 0x00] })
      (fun t => t.epr[0] == 0x2AE0 && t.bus == [.data false [0x12, 0x01]]) = true := by decide +kernel
/-- R293: a packet that covers its own `COUNT_RX` word (bytes 6 and 7) leaves bits 15:10 there, and the count is written after. -/
theorem test_hostOut_overlap :
    after (exec (.hostOut 5 0 [0x11, 0xFC]) { host 0x3220 with pma := mem 4 [0x06, 0x00, 0x00, 0x84] })
      (fun t => t.pma.word 3 == 0xFC02) = true := by decide +kernel
/-- R103: the PIDs of what the device answers. -/
theorem test_answerPids :
    (BusAnswer.data false [7]).packet = [0xC3, 7] ∧ (BusAnswer.data true []).packet = [0x4B] ∧ BusAnswer.ack.packet = [0xD2]
      ∧ BusAnswer.nak.packet = [0x5A] ∧ BusAnswer.stall.packet = [0x1E] ∧ BusAnswer.noAnswer.packet = [] := by decide
theorem test_busEvents :
    after (exec .hostBusReset (host 0x3220)) (fun t => t.epr[0] == 0 && t.daddr == 0 && t.istr == 0x0400) = true
      ∧ after (exec .hostSuspend (host 0x3220)) (fun t => t.istr == 0x0800) = true
      ∧ after (exec .hostResume (host 0x3220)) (fun t => t.istr == 0x1000) = true
      ∧ after (exec (.hostSof 7) (host 0x3220)) (fun t => t.istr == 0x0200) = true := by decide +kernel

/-! ## Bus accesses of the foreground (R62, R341) and `ADDR_BITS` (R7) -/

/-- `CNTR` is at the base plus 0x40: a read gives 32 bits with bits 31:16 at 0, a write drops them; no register is at 0x48. -/
theorem test_busRead :
    after (step { State.reset with trace := [.busRead 0x40006840] }) (fun t => t.busData == 0x00000003) = true
      ∧ refuses (step { State.reset with trace := [.busRead 0x40006848] }) .outsideBlock = true := by decide +kernel
/-- R341: the packet memory by word, CPU memory, the block's state; R24, R67: the latch outside a dispatch, past the end. -/
theorem test_read :
    let s := fun x : Shared => { wr 0 0 0 with irqMasked := false, trace := [.read x], cpu := mem 0x20000100 [0xAB] }
    after (step (s (.pmaWord 3))) (fun t => t.seen == some (.half 0x8400)) = true
      ∧ after (step (s (.cpuByte 0x20000100))) (fun t => t.seen == some (.byte 0xAB)) = true
      ∧ after (step (s .devState)) (fun t => t.seen == some (.devState .default)) = true
      ∧ faults (step (s .setup)) .setupNotLatched = true
      ∧ faults (step (s (.pmaWord 512))) .pmaBounds = true := by decide +kernel
theorem test_busWrite :
    after (step { wr 0 0 0 with trace := [.busWrite 0x4000684C 0xFFFF0085] }) (fun t => t.daddr == 0x85) = true
      ∧ faults (step { State.reset with trace := [.busWrite 0x4000684C 0x85] }) .foregroundWrite = true := by decide +kernel
theorem test_addrBits :
    let c := { Params.standard with addrBits := 16, statusBufAddr := 0x0100 }
    c.mapped 0xFFFF = true ∧ c.mapped 0x10000 = false ∧ c.legal = true ∧ Params.standard.mapped 0xFFFFFFFF = true := by decide

/-! ## Runs (R387) -/

/-- The power-on state with a call of `core_init` as its one line starts a run, and ends none before the call. -/
theorem test_run_start :
    let s := { State.reset with trace := [.drv (ans .suspend 0 0), .call [0x0C, 0xFF, 0xFF, 0x00, 0x00]] }
    foregroundLeft s = [.call (0x0C :: [0xFF, 0xFF, 0x00, 0x00])] ∧ Launch s ∧ ¬ Ended HostDuty.listed s := by
  refine ⟨rfl, ⟨rfl, rfl, rfl⟩, fun h => ?_⟩
  exact absurd h.2.2.2.2.1 (by decide)
/-- The host's steps are those of the lines and of the windows; a claim may oblige it to none of them. -/
theorem test_run_end :
    let s := { State.reset with trace := [.event .suspend, .interleave [[.sof 1]]], window := [[.resume], []] }
    hostLeft s = [.resume, .suspend, .sof 1] ∧ ¬ Ended HostDuty.listed s ∧ Ended (fun _ _ => False) s
      ∧ Ended HostDuty.listed State.reset := by
  refine ⟨rfl, fun h => h.2.2.2.2.2 .resume (by simp [HostDuty.listed, hostLeft]), ⟨rfl, rfl, rfl, by decide, rfl, fun _ h => h⟩,
    ⟨rfl, rfl, rfl, by decide, rfl, fun t h => ?_⟩⟩
  exact absurd h (by simp [HostDuty.listed, hostLeft, State.reset])

/-! ## Witnesses: for every statement with hypotheses, a state and operands that meet them, clause by clause -/

/-- A writer of shared state with nothing between its steps. -/
abbrev Calm (s : State) : Prop := Quiet s ∧ Writer s

/-- A request's packet with every don't-care bit of its key set. -/
def pk (t b : Byte) : SetupPacket := { bmRequestType := t, bRequest := b, wValue := 0xFFFF, wIndex := 0xFFFF, wLength := 0xFFFF }

/-- A state that fetches a stage. -/
def atStage (w : BitVec 3) : State := { State.reset with stageDue := true, ctx := { Ctx.cleared with stage := w } }

/-- A state whose next line is an item. -/
def atItem (it : Item) : State := { State.reset with trace := [it] }

/-- A state whose interrupt line is high: a start of frame, enabled. -/
def lineHigh : State := { State.reset with istr := 0x0200, cntr := 0x9E00 }

/-- CPU memory mapped only from 0x20000000 on. -/
def partMapped : State := { wr 0 0 0 with cfg := { Params.standard with cpuMap := [{ base := 0x20000000, size := 0x10000 }] } }

theorem witness_DecodeEncode :
    WellFormed (.stdUndefined 2 (rq true 31 0xFFFF 0xFFFF 0xFFFF)) ∧ WellFormed (.stdUndefined 13 (rq false 0 0 0 0))
      ∧ WellFormed (.ctrEpnOut 15) ∧ WellFormed (.ctrEpnIn 1) ∧ WellFormed (.prepareDataOut 0xFFFFFFFF 0 none)
      ∧ WellFormed (.registerEndpoint 255 .control 0xFFFF 0 0 (some 1) (some 0xFFFF)) ∧ WellFormed (.coreInit none)
      ∧ WellFormed (.stallEp0 1) ∧ WellFormed (.stallEp0 12) ∧ WellFormed (.hostOut 127 15 [0xFF])
      ∧ WellFormed .hostResume := by decide
theorem witness_DecodeSound :
    decode (.setup8 [0x60, 0, 0, 0, 0, 0, 0, 0]) = .ok (.reservedType 0 (rq false 0 0 0 0))
      ∧ decode (.istr16 0x8C1F) = .ok (.ctrEpnOut 15) ∧ decode (.stage3 4) = .ok .stageStatusOut
      ∧ decode (.call8 [0x03]) = .ok .prepareStatusIn ∧ decode (.token [0xA5, 0xFF, 0x07]) = .ok (.hostSof 0x7FF)
      ∧ decode (.event .suspend) = .ok .hostSuspend ∧ ∀ w, Enc.stage3 4 ≠ .istr16 w :=
  ⟨rfl, rfl, rfl, rfl, rfl, rfl, fun _ => Enc.noConfusion⟩
theorem witness_ParseSetup : ([] : List Byte).length ≠ 8 ∧ (List.replicate 7 (0 : Byte)).length ≠ 8
    ∧ (List.replicate 9 (0 : Byte)).length ≠ 8 := by decide
theorem witness_SetupRows_std :
    (pk 0x9F 0).key &&& 0xFF60 = 0x0000 ∧ (pk 0x9F 1).key &&& 0xFF60 = 0x0100 ∧ (pk 0x9F 3).key &&& 0xFF60 = 0x0300
      ∧ (pk 0x9F 5).key &&& 0xFF60 = 0x0500 ∧ (pk 0x9F 6).key &&& 0xFF60 = 0x0600 ∧ (pk 0x9F 7).key &&& 0xFF60 = 0x0700
      ∧ (pk 0x9F 8).key &&& 0xFF60 = 0x0800 ∧ (pk 0x9F 9).key &&& 0xFF60 = 0x0900 ∧ (pk 0x9F 10).key &&& 0xFF60 = 0x0A00
      ∧ (pk 0x9F 11).key &&& 0xFF60 = 0x0B00 ∧ (pk 0x9F 12).key &&& 0xFF60 = 0x0C00 := by decide
theorem witness_SetupRows_rest :
    ((pk 0x9F 2).key &&& 0x0060 = 0x0000 ∧ (pk 0x9F 2).bRequest ∉ definedStdCodes)
      ∧ ((pk 0x80 255).key &&& 0x0060 = 0x0000 ∧ (pk 0x80 255).bRequest ∉ definedStdCodes)
      ∧ (pk 0xBF 255).key &&& 0x0060 = 0x0020 ∧ (pk 0xDF 0).key &&& 0x0060 = 0x0040
      ∧ (pk 0xFF 6).key &&& 0x0060 = 0x0060 := by decide
theorem witness_IstrRows :
    ((0xFFF0 : Half) &&& 0x801F = 0x8010) ∧ ((0xFFE0 : Half) &&& 0x801F = 0x8000)
      ∧ ((0x8011 : Half) &&& 0x8010 = 0x8010 ∧ (0x8011 : Half) &&& 0x000F ≠ 0)
      ∧ ((0xFFFF : Half) &&& 0x8010 = 0x8010 ∧ (0xFFFF : Half) &&& 0x000F ≠ 0)
      ∧ ((0x8001 : Half) &&& 0x8010 = 0x8000 ∧ (0x8001 : Half) &&& 0x000F ≠ 0)
      ∧ ((0xFFEF : Half) &&& 0x8010 = 0x8000 ∧ (0xFFEF : Half) &&& 0x000F ≠ 0)
      ∧ (0x7FFF : Half) &&& 0x8400 = 0x0400 ∧ (0x7BFF : Half) &&& 0x9400 = 0x1000 ∧ (0x6BFF : Half) &&& 0x9C00 = 0x0800
      ∧ (0x63FF : Half) &&& 0x9E00 = 0x0200 ∧ (0x61FF : Half) &&& 0x9E00 = 0 := by decide
theorem witness_StageRows :
    ((atStage 5).fatal = none ∧ (atStage 5).inDispatch = false ∧ (atStage 5).stageDue = true ∧ 4 < (atStage 5).ctx.stage.toNat)
      ∧ ((atStage 7).fatal = none ∧ (atStage 7).inDispatch = false ∧ (atStage 7).stageDue = true
        ∧ 4 < (atStage 7).ctx.stage.toNat) := by decide
theorem witness_UnassignedCalls_ids :
    (∀ id ∈ ([0x0D, 0x0F, 0x1D, 0x1F, 0x21, 0xFF] : List Byte),
      (0x0D ≤ id.toNat ∧ id.toNat ≤ 0x0F) ∨ (0x1D ≤ id.toNat ∧ id.toNat ≤ 0x1F) ∨ 0x21 ≤ id.toNat) := by decide
theorem witness_UnassignedCalls_state :
    let s := atItem (.call [0x0D, 1])
    s.fatal = none ∧ s.inDispatch = false ∧ s.stageDue = false ∧ s.inIsr = false ∧ s.trace = .call (0x0D :: [1]) :: [] := by
  decide
theorem witness_StepRunsDecoded_dispatch :
    let p := (rq true 0 0x0100 0 18).packet 0 6
    let i := Instr.getDescriptor (rq true 0 0x0100 0 18)
    WellFormed i ∧ (disp p).fatal = none ∧ (disp p).inDispatch = true ∧ (disp p).setup = some p
      ∧ decode (.setup8 p.bytes) = .ok i := ⟨rfl, rfl, rfl, rfl, rfl⟩
theorem witness_StepRunsDecoded_stage :
    WellFormed .stageStatusOut ∧ (atStage 4).fatal = none ∧ (atStage 4).inDispatch = false ∧ (atStage 4).stageDue = true
      ∧ decode (.stage3 (atStage 4).ctx.stage) = .ok .stageStatusOut := ⟨rfl, rfl, rfl, rfl, rfl⟩
theorem witness_StepRunsDecoded_event :
    let s := { State.reset with inIsr := true, isrPending := 0x8017 }
    WellFormed (.ctrEpnOut 7) ∧ s.fatal = none ∧ s.inDispatch = false ∧ s.stageDue = false ∧ s.inIsr = true
      ∧ decode (.istr16 s.isrPending) = .ok (.ctrEpnOut 7) := ⟨rfl, rfl, rfl, rfl, rfl, rfl⟩
theorem witness_StepRunsDecoded_line :
    (let s := atItem (.call [0x0B, 0x07])
     WellFormed (.unregisterEndpoint 7) ∧ s.fatal = none ∧ s.inDispatch = false ∧ s.stageDue = false ∧ s.inIsr = false
      ∧ s.trace = [.call [0x0B, 0x07]] ∧ decode (.call8 [0x0B, 0x07]) = .ok (.unregisterEndpoint 7))
      ∧ (let s := atItem (.host [0x69, 0x00, 0x00])
         WellFormed (.hostIn 0 0) ∧ s.fatal = none ∧ s.inDispatch = false ∧ s.stageDue = false ∧ s.inIsr = false
          ∧ s.trace = [.host [0x69, 0x00, 0x00]] ∧ decode (.token [0x69, 0x00, 0x00]) = .ok (.hostIn 0 0))
      ∧ (let s := atItem (.event .busReset)
         WellFormed .hostBusReset ∧ s.fatal = none ∧ s.inDispatch = false ∧ s.stageDue = false ∧ s.inIsr = false
          ∧ s.trace = [.event .busReset] ∧ decode (.event .busReset) = .ok .hostBusReset) :=
  ⟨⟨rfl, rfl, rfl, rfl, rfl, rfl, rfl⟩, ⟨rfl, rfl, rfl, rfl, rfl, rfl, rfl⟩, ⟨rfl, rfl, rfl, rfl, rfl, rfl, rfl⟩⟩
theorem witness_StepHalted : { State.reset with fatal := some FatalCause.epRange }.fatal = some .epRange := by decide
theorem witness_IsrEntry_due :
    (let s := lineHigh
     s.fatal = none ∧ s.inDispatch = false ∧ s.stageDue = false ∧ s.inIsr = false ∧ Quiet s ∧ irqLine s = true
      ∧ s.irqMasked = false ∧ s.trace = [])
      ∧ (let s := { lineHigh with trace := [.isr, .unmask] }
         s.fatal = none ∧ s.inDispatch = false ∧ s.stageDue = false ∧ s.inIsr = false ∧ Quiet s ∧ irqLine s = true
          ∧ s.irqMasked = false ∧ s.trace = .isr :: [.unmask]) := by decide +kernel
theorem witness_IsrEntry_notDue :
    (irqLine State.reset = false ∧ State.reset.trace = [] ∧ Quiet State.reset)
      ∧ (let s := { lineHigh with irqMasked := true }; irqLine s = true ∧ s.irqMasked = true ∧ s.trace = [])
      ∧ (let s := atItem .isr; irqLine s = false ∧ s.trace = .isr :: []) := by decide +kernel
/-- The flags at both ends of their range with their enables, and completions of either direction at either end of the
endpoints. -/
theorem witness_IsrEntry_flags :
    (let s := { State.reset with istr := 0x0080, cntr := 0x0080 }; s.istr.getLsbD 7 = true ∧ s.cntr.getLsbD 7 = true)
      ∧ (let s := { State.reset with istr := 0x4000, cntr := 0x4000 }; s.istr.getLsbD 14 = true ∧ s.cntr.getLsbD 14 = true)
      ∧ (let s := { State.reset with epr := #v[0x0080, 0, 0, 0, 0, 0, 0, 0x8000], cntr := 0x8000 }
         s.epr[(0 : Fin 8)].getLsbD 7 = true ∧ s.epr[(7 : Fin 8)].getLsbD 15 = true ∧ s.cntr.getLsbD 15 = true) := by decide
theorem witness_IsrReturn :
    let s := { lineHigh with inIsr := true, isrPending := 0x61FF, isrHandled := 0x0200 }
    s.fatal = none ∧ s.inDispatch = false ∧ s.stageDue = false ∧ s.inIsr = true ∧ Quiet s ∧ s.isrPending &&& 0x9E00 = 0 := by
  decide
theorem witness_InvKept :
    Inv { atItem (.store 0x20000000 7) with pma := bd0 0, istr := 0x7F80, btable := 0xFFF8 }
      ∧ after (step { atItem (.store 0x20000000 7) with pma := bd0 0, istr := 0x7F80, btable := 0xFFF8 })
          (fun t => t.cpu == [(0x20000000, 7)]) = true := by
  refine ⟨?_, by decide +kernel⟩
  unfold Inv
  decide +kernel
theorem witness_DaddrWriters :
    Instr.hostBusReset ≠ .evReset ∧ Instr.hostBusReset ≠ .stageStatusIn
      ∧ after (exec .hostBusReset (host 0x3220)) (fun t => t.daddr == 0) = true
      ∧ after (exec .evSof (host 0x3220)) (fun t => t.daddr == 0x85) = true
      ∧ (let s := { host 0x3220 with window := [[], [.sof 1, .busReset]] }
         (∃ ts ∈ s.window, Token.busReset ∈ ts)
          ∧ after (exec (.epSetKind 0) s) (fun t => t.daddr == 0) = true) := by decide +kernel
theorem witness_DevStateArcs :
    after (exec .stageStatusIn { dev .default with
        dev := { State.reset.dev with addrPending := true, pendingAddr := 127 } }) (fun t => t.dev.state == .addressed) = true
      ∧ after (exec .stageStatusIn { dev .addressed with
          dev := { State.reset.dev with state := .addressed, addrPending := true } }) (fun t => t.dev.state == .default) = true
      ∧ after (exec (.setConfiguration (rq false 0 0 0 0))
          { dev .configured with answers := [ans .isConfigurationValid 1 0] }) (fun t => t.dev.state == .addressed) = true := by
  decide +kernel
theorem witness_ConfigurationConstant :
    (∀ bs q d, (lineHigh).trace = .call bs :: q → decode (.call8 bs) ≠ .ok (.coreInit d))
      ∧ after (step lineHigh) (fun t => t.inIsr) = true
      ∧ (∀ d, Instr.evSof ≠ .coreInit d) ∧ after (exec .evSof lineHigh) (fun t => t.cntr == 0x9E00) = true :=
  ⟨fun _ _ _ h => by simp [lineHigh, State.reset] at h, by decide +kernel, fun _ => Instr.noConfusion, by decide +kernel⟩

/-! ### Endpoint registers -/

theorem witness_FormulaEffect :
    ((0x3000 : Half) &&& ~~~ 0x7070 = 0 ∧ (0x8000 : Half) &&& ~~~ 0x8080 = 0)
      ∧ ((0x070F : Half).getLsbD 0 = true ∧ (0x070F : Half).getLsbD 10 = true)
      ∧ ((0x7070 : Half).getLsbD 4 = true ∧ (0x3000 : Half).getLsbD 4 = false) ∧ (0x3000 : Half).getLsbD 12 = true
      ∧ (0x8000 : Half).getLsbD 15 = true ∧ ((0x8080 : Half).getLsbD 7 = true ∧ (0x8000 : Half).getLsbD 7 = false) := by
  decide
theorem witness_RmwWindow :
    let s := { host 0x2A30 with window := [[.sof 1], [.inn 5 0]] }
    s.window = [.sof 1] :: [.inn 5 0] :: []
      ∧ (match sieSteps [.sof 1] { s with window := [[.inn 5 0]] } with
         | .ok (_, t) => (match sieSteps [.inn 5 0] { t with window := [] } with
           | .ok (_, u) => u.epr[0] == 0x2AE0
           | .error _ => false)
         | .error _ => false) = true := by decide +kernel
theorem witness_WrittenWords :
    Writer (wr 0x3220 0 0) ∧ Writer { State.reset with inIsr := true } ∧ (0 : Byte).toNat < 8 ∧ (7 : Byte).toNat < 8
      ∧ 8 ≤ (8 : Byte).toNat ∧ 8 ≤ (255 : Byte).toNat := by decide
/-- Also for `KindResults`, `ClearResults` and `UnregisterResult`. -/
theorem witness_SetStatusResult : Calm (wr 0x3220 0 0) ∧ (7 : Byte).toNat < 8 ∧ (0 : Byte).toNat < 8
    ∧ 8 ≤ (8 : Byte).toNat := by decide
theorem witness_StallResults :
    Calm (wr 0x0220 0 0) ∧ statOf .dirOut (wr 0x0220 0 0).epr[0] = .disabled
      ∧ Calm (wr 0x3220 0 0) ∧ statOf .dirOut (wr 0x3220 0 0).epr[0] ≠ .disabled
      ∧ statOf .dirOut (wr 0x3220 0 0).epr[0] ≠ .stall ∧ Calm (wr 0x5220 0 0)
      ∧ statOf .dirOut (wr 0x5220 0 0).epr[0] = .stall ∧ statOf .dirIn (wr 0x0250 0 0).epr[0] = .stall := by decide
theorem witness_ConfigureSingle :
    let s := wr 0 0 0
    Calm s ∧ wordsFree s (bdWords s.cfg 7 [(.addrTx, 0xFFFF), (.countTx, 0), (.addrRx, 0x03C0), (.countRx, encodeRx 1024)])
        = true
      ∧ wordsFree s (bdWords s.cfg 0 [(.addrTx, 0), (.countTx, 0)]) = true
      ∧ wordsFree s (bdWords s.cfg 0 [(.addrRx, 0x0040), (.countRx, encodeRx 0)]) = true := by decide +kernel
theorem witness_ConfigureDouble :
    let s := wr 0 0 0
    Calm s ∧ wordsFree s (bdWords s.cfg 7 [(.addrTx, 0x0100), (.countTx, 0), (.addrRx, 0x0140), (.countRx, 0)]) = true
      ∧ wordsFree s (bdWords s.cfg 1
          [(.addrTx, 0x0100), (.countTx, encodeRx 63), (.addrRx, 0x0140), (.countRx, encodeRx 63)]) = true := by
  decide +kernel
theorem witness_BadEpFaults : Writer (wr 0 0 0) ∧ 8 ≤ (8 : Byte).toNat ∧ 8 ≤ (255 : Byte).toNat := by decide
theorem witness_ForegroundWriteFaults :
    isCommand .prepareStatusIn = true ∧ isCommand (.epSetKind 0) = true ∧ isCommand (.pmaRead 0 0 0) = true
      ∧ isCommand (.unregisterEndpoint 8) = true ∧ State.reset.inIsr = false ∧ State.reset.irqMasked = false := by decide
/-- A write with and without the mask, and a read, at any address. -/
theorem witness_ForegroundWriteFaults_lines (a v : Addr) :
    (let s := atItem (.busWrite a v)
     s.fatal = none ∧ s.inDispatch = false ∧ s.stageDue = false ∧ s.inIsr = false ∧ s.irqMasked = false
      ∧ s.trace = [.busWrite a v])
      ∧ (let s := { atItem (.busWrite a v) with irqMasked := true }; s.irqMasked = true ∧ Quiet s)
      ∧ (let s := atItem (.busRead a); s.trace = [.busRead a] ∧ Quiet s) :=
  ⟨⟨rfl, rfl, rfl, rfl, rfl, rfl⟩, ⟨rfl, rfl⟩, rfl, rfl⟩
/-- A read by name, and the bounds at which one stops. -/
theorem witness_ForegroundWriteFaults_reads (x : Shared) :
    (let s := atItem (.read x)
     s.fatal = none ∧ s.inDispatch = false ∧ s.stageDue = false ∧ s.inIsr = false ∧ Quiet s ∧ s.trace = [.read x])
      ∧ 2 * 511 + 2 ≤ State.reset.cfg.pmaBytes ∧ State.reset.cfg.pmaBytes < 2 * 512 + 2
      ∧ partMapped.cfg.mapped 0x2000FFFF = true ∧ partMapped.cfg.mapped 0x20010000 = false :=
  ⟨⟨rfl, rfl, rfl, rfl, rfl, rfl⟩, by decide, by decide, by decide, by decide⟩
/-- The first and the last register of each kind. -/
theorem witness_ForegroundWriteFaults_addresses :
    regAtBus State.reset.cfg 0x40006800 = some (.epr 0) ∧ regAtBus State.reset.cfg 0x4000681C = some (.epr 7)
      ∧ regAtBus State.reset.cfg 0x40006840 = some .cntr ∧ regAtBus State.reset.cfg 0x40006844 = some .istr
      ∧ regAtBus State.reset.cfg 0x4000684C = some .daddr ∧ regAtBus State.reset.cfg 0x40006850 = some .btable := by
  decide +kernel

/-- The forms of a configuration and of a registration on an armed endpoint: where the IN direction is armed, -/
theorem witness_ReconfigureArmedFaults_tx :
    let s := wr 0x2230 0x0031 0
    Calm s ∧ 2 * bdIndex s.cfg 0 .countRx + 2 ≤ s.cfg.pmaBytes ∧ 2 * bdIndex s.cfg 7 .countRx + 2 ≤ s.cfg.pmaBytes
      ∧ wordsFree s (bdWords s.cfg 0 [(.addrTx, 0x0080)]) = true ∧ txOwned s.epr[0] = true
      ∧ wordsFree s (bdWords s.cfg 1 [(.addrTx, 0x03FE)]) = true ∧ txOwned s.epr[1] = true
      ∧ (EpType.control ≠ .isochronous ∧ (EpType.control = .control ↔ (0 : Byte) = 0))
      ∧ ((EpType.bulk = .bulk ∨ EpType.bulk = .interrupt) ∧ (1 : Byte) ≠ 0)
      ∧ ((EpType.bulk = .bulk ∨ EpType.bulk = .isochronous) ∧ (1 : Byte) ≠ 0)
      ∧ ((0x03FE : Half).toNat % 2 = 0 ∧ (0x03FE : Half).toNat + 2 ≤ s.cfg.pmaBytes)
      ∧ ((0x0000 : Half).toNat % 2 = 0 ∧ (1024 : Half).toNat ≤ 1024
        ∧ (0x0000 : Half).toNat + rxSize (encodeRx 1024) ≤ s.cfg.pmaBytes) := by decide +kernel
/-- and where the OUT direction is. -/
theorem witness_ReconfigureArmedFaults_rx :
    let s := wr 0x3220 0x3001 0
    Calm s ∧ rxOwned s.epr[0] = true ∧ rxOwned s.epr[1] = true
      ∧ wordsFree s (bdWords s.cfg 0 [(.addrTx, 0x0080), (.countTx, 0), (.addrRx, 0x0040)]) = true
      ∧ wordsFree s (bdWords s.cfg 1 [(.addrTx, 0x0100), (.countTx, 0), (.addrRx, 0x0140)]) = true
      ∧ wordsFree s (bdWords s.cfg 1 [(.addrTx, 0x0100), (.countTx, encodeRx 1024), (.addrRx, 0x0000)]) = true
      ∧ wordsFree s (bdWords s.cfg 1 [(.addrRx, 0x0000)]) = true := by decide +kernel

/-! ### The byte packer and the endpoint table -/

/-- Also for `PmaRoundTrip`: an odd and an even count, an empty one, and the last word of the packet memory. -/
theorem witness_PmaWriteBytes :
    let s := wr 0 0 0
    Calm s ∧ pmaWritable s 0x20000200 0x0080 3 = true ∧ pmaWritable s 0x20000200 0x0080 0 = true
      ∧ pmaWritable s 0xFFFFFFFF 0x03FE 2 = true ∧ pmaWritable s 0x20000200 0x03FE 1 = true ∧ s.cfg.pmaBytes % 2 = 0
      ∧ mappedFrom s.cfg 0xFFFFFFFF 3 = true := by decide +kernel
theorem witness_PmaReadBytes :
    let s := wr 0x3220 0 0
    Calm s ∧ pmaReadable s 0x0040 0x20000200 3 = true ∧ pmaReadable s 0x0000 0xFFFFFFFF 8 = true
      ∧ pmaReadable s 0x03FE 0x20000200 2 = true ∧ pmaReadable s 0xFFFE 0x20000200 0 = true := by decide +kernel
theorem witness_PmaStops :
    Calm (wr 0x3220 0 0) ∧ (0x0081 : Half).toNat % 2 = 1
      ∧ ((0x03FE : Half).toNat % 2 = 0 ∧ (3 : Half) ≠ 0 ∧ (wr 0x3220 0 0).cfg.pmaBytes < (0x03FE : Half).toNat + (3 : Half).toNat)
      ∧ ((0x0040 : Half).toNat % 2 = 0 ∧ 2 ≤ (2 : Half).toNat
        ∧ (0x0040 : Half).toNat + (2 : Half).toNat ≤ (wr 0x3220 0 0).cfg.pmaBytes
        ∧ (wr 0x3220 0 0).cfg.mapped 0xFFFFFFFF = true ∧ (wr 0x3220 0 0).cfg.mapped (0xFFFFFFFF + 1) = true
        ∧ sieOwns (wr 0x3220 0 0) ((0x0040 : Half).toNat / 2) = true)
      ∧ (Calm partMapped ∧ partMapped.cfg.mapped 0x20010000 = false ∧ partMapped.cfg.mapped 0x1FFFFFFF = false
        ∧ (0x03FE : Half).toNat + (2 : Half).toNat ≤ partMapped.cfg.pmaBytes) := by decide +kernel
theorem witness_RegisterSingle :
    let s := wr 0 0 0
    Calm s ∧ EpType.control ≠ .isochronous ∧ (EpType.control = .control ↔ (0 : Byte) = 0)
      ∧ (EpType.bulk = .control ↔ (7 : Byte) = 0) ∧ (7 : Byte).toNat < 8
      ∧ ((0x03FE : Half).toNat % 2 = 0 ∧ (0x03FE : Half).toNat + 2 ≤ s.cfg.pmaBytes)
      ∧ ((0x0000 : Half).toNat % 2 = 0 ∧ (1024 : Half).toNat ≤ 1024
        ∧ (0x0000 : Half).toNat + rxSize (encodeRx 1024) ≤ s.cfg.pmaBytes)
      ∧ wordsFree s (bdWords s.cfg 7 [(.addrTx, 0x03FE), (.countTx, 0), (.addrRx, 0), (.countRx, encodeRx 1024)]) = true
      ∧ wordsFree s (bdWords s.cfg 1 [(.addrTx, 0x03FE), (.countTx, 0)]) = true
      ∧ wordsFree s (bdWords s.cfg 7 [(.addrRx, 0), (.countRx, encodeRx 1024)]) = true := by decide +kernel
theorem witness_RegisterDouble :
    let s := wr 0 0 0
    Calm s ∧ (7 : Byte) ≠ 0 ∧ (7 : Byte).toNat < 8
      ∧ ((0x03FE : Half).toNat % 2 = 0 ∧ (0x03FE : Half).toNat + 2 ≤ s.cfg.pmaBytes)
      ∧ wordsFree s (bdWords s.cfg 7 [(.addrTx, 0x03FE), (.countTx, 0), (.addrRx, 0x03FE), (.countRx, 0)]) = true
      ∧ ((0x03C0 : Half).toNat % 2 = 0 ∧ (64 : Half).toNat ≤ 1024
        ∧ (0x03C0 : Half).toNat + rxSize (encodeRx 64) ≤ s.cfg.pmaBytes)
      ∧ wordsFree s (bdWords s.cfg 7
          [(.addrTx, 0x03C0), (.countTx, encodeRx 64), (.addrRx, 0x03C0), (.countRx, encodeRx 64)]) = true := by
  decide +kernel
theorem witness_RegistrationChecks :
    let s := wr 0 0 0
    Writer s ∧ 8 ≤ (8 : Byte).toNat ∧ (7 : Byte).toNat < 8 ∧ (EpType.control = .control ∧ (7 : Byte) ≠ 0)
      ∧ (EpType.bulk ≠ .control ∧ (0 : Byte) = 0) ∧ (EpType.bulk ≠ .isochronous ∧ (EpType.bulk = .control ↔ (7 : Byte) = 0))
      ∧ (0x0101 : Half).toNat % 2 = 1 ∧ s.cfg.pmaBytes < (0x0400 : Half).toNat + 2 ∧ 1024 < (1025 : Half).toNat
      ∧ s.cfg.pmaBytes < (0x03C2 : Half).toNat + rxSize (encodeRx 64)
      ∧ ((0x03FE : Half).toNat % 2 = 0 ∧ (0x03FE : Half).toNat + 2 ≤ s.cfg.pmaBytes)
      ∧ ((0x03C0 : Half).toNat % 2 = 0 ∧ (64 : Half).toNat ≤ 1024
        ∧ (0x03C0 : Half).toNat + rxSize (encodeRx 64) ≤ s.cfg.pmaBytes) := by decide +kernel
/-- At reset, and in a state in which a call of `core_init` is a second one, with the interrupt enabled and not masked (log 23). -/
theorem witness_CoreInitResult :
    Quiet State.reset ∧ (let s := { lineHigh with driver := 0x0FFFF, btable := 0x0100 }; Quiet s ∧ irqLine s = true) ∧ (∀ k, k < 16 → (0x0FFFF : DriverFlags).getLsbD k = true)
      ∧ (15 < 16 ∧ (0x07FFF : DriverFlags).getLsbD 15 = false) ∧ (0 < 16 ∧ (0x1FFFFE : DriverFlags).getLsbD 0 = false) := by
  decide

/-! ### The control machine -/

theorem witness_PrepareDataInResult :
    let s := disp ((rq true 0 0x0100 0 200).packet 0 6)
    let u := s.packed 0x08000100 s.cfg.ep0TxOff 64
    Calm s ∧ MayRespond s ∧ s.setup = some ((rq true 0 0x0100 0 200).packet 0 6)
      ∧ pmaWritable s 0x08000100 s.cfg.ep0TxOff 64 = true
      ∧ wordsFree u (bdWords s.cfg 0 [(.countTx, 64)]) = true := by decide +kernel
theorem witness_PrepareDataInResult_empty :
    let s := disp ((rq true 0 0x0100 0 0).packet 0 6)
    Calm s ∧ MayRespond s ∧ pmaWritable s 0x08000100 s.cfg.ep0TxOff 0 = true
      ∧ wordsFree (s.packed 0x08000100 s.cfg.ep0TxOff 0) (bdWords s.cfg 0 [(.countTx, 0)]) = true := by decide +kernel
theorem witness_ResponseResults :
    let s := disp ((rq false 0 0 0 1).packet 1 0)
    Calm s ∧ MayRespond s ∧ (1 : Addr) ≠ 0 ∧ StatusInFree s := by decide +kernel
theorem witness_ResponseContextFaults :
    (Writer (wr 0 0 0) ∧ (wr 0 0 0).inDispatch = false)
      ∧ (let s := { disp ((rq false 0 0 0 1).packet 1 0) with responded := true }; Writer s ∧ s.responded = true) := by decide
theorem witness_SetupStageResult :
    (Quiet (dev .default) ∧ { dev .default with ev := { dir := .dirIn, setup := true } }.ev.dir = .dirIn)
      ∧ { dev .default with ev := { dir := .dirOut, setup := false } }.ev.setup = false
      ∧ (let s := { dev .default with ev := { dir := .dirOut, setup := true }, pma := bd0 8 }
         s.ev.dir = .dirOut ∧ s.ev.setup = true ∧ 2 * bdIndex s.cfg 0 .countRx + 2 ≤ s.cfg.pmaBytes
          ∧ countOf (bdWord s 0 .countRx) = 8 ∧ s.cfg.ep0RxOff.toNat % 2 = 0 ∧ s.cfg.ep0RxOff.toNat + 8 ≤ s.cfg.pmaBytes)
      ∧ countOf (bdWord { dev .default with pma := bd0 7 } 0 .countRx) ≠ 8 := by decide +kernel
theorem witness_DataInStageResult :
    let s := fun n : Addr => { dev .configured with ctx := { buffer := 0x08000240, remaining := n, stage := 1, completion := none } }
    Quiet (s 2) ∧ (s 2).ctx.remaining ≠ 0 ∧ chunkWritable (s 2) = true ∧ chunkWritable (s 65) = true
      ∧ (s 0).ctx.remaining = 0 := by decide +kernel
theorem witness_DataOutStageResult :
    let s := fun (n : Addr) (count : Byte) => { wr 0x2220 0 0 with
      ctx := { buffer := 0x20000200, remaining := n, stage := 2, completion := some 9 }, pma := bd0 count }
    Quiet (s 7 7) ∧ 2 * bdIndex (s 7 7).cfg 0 .countRx + 2 ≤ (s 7 7).cfg.pmaBytes
      ∧ pmaReadable (s 7 7) (s 7 7).cfg.ep0RxOff 0x20000200 7 = true
      ∧ min (s 7 7).ctx.remaining.toNat (countOf (bdWord (s 7 7) 0 .countRx)) = (s 7 7).ctx.remaining.toNat
      ∧ StatusInFree ((s 7 7).unpacked 0x0040 0x20000200 7)
      ∧ (min (s 65 64).ctx.remaining.toNat (countOf (bdWord (s 65 64) 0 .countRx)) < (s 65 64).ctx.remaining.toNat
        ∧ (s 65 64).cfg.shortOutEnds = false)
      ∧ (let u := { s 65 63 with cfg := { Params.standard with shortOutEnds := true } }
         u.cfg.shortOutEnds = true ∧ countOf (bdWord u 0 .countRx) < u.cfg.mps0 ∧ StatusInFree u)
      ∧ (let u := { s 65 64 with cfg := { Params.standard with shortOutEnds := true } }
         u.cfg.mps0 ≤ countOf (bdWord u 0 .countRx)) := by decide +kernel
/-- Also for `StatusOutStageResult`. -/
theorem witness_StatusInStageResult :
    Quiet (dev .default) ∧ Passive { dev .default with answers := [ans .suspend 0 0] } ∧ (dev .default).ctx.completion = none
      ∧ { dev .default with ctx := { Ctx.cleared with completion := some 9 } }.ctx.completion = some 9 := by decide

/-! ### Requests -/

theorem witness_StalledRequests :
    Quiet (dev .default)
      ∧ (requestOf (.getStatus (rq true 0 0 0 2)) = some (some .getStatus, (rq true 0 0 0 2).packet 0 0)
        ∧ (dev .default).cfg.legalPoint (dev .default).dev.state .getStatus = false)
      ∧ requestOf (.stdUndefined 2 (rq true 0 0 0 2)) = some (none, (rq true 0 0 0 2).packet 0 2)
      ∧ requestOf (.reservedType 9 (rq true 0 0 0 2)) = some (none, (rq true 0 0 0 2).packet 3 9)
      ∧ (requestOf (.synchFrame (rq true 2 0 0x81 2)) = some (some .synchFrame, (rq true 2 0 0x81 2).packet 0 12)
        ∧ (dev .configured).cfg.legalPoint (dev .configured).dev.state .synchFrame = true
        ∧ (dev .addressed).cfg.legalPoint (dev .addressed).dev.state .synchFrame = false) := by
  decide +kernel
theorem witness_SetAddressResult :
    Quiet (dev .addressed) ∧ (dev .addressed).cfg.legalPoint (dev .addressed).dev.state .setAddress = true
      ∧ StatusInFree (dev .addressed) := by decide +kernel
theorem witness_SetConfigurationResult :
    let s := fun a : Addr => { dev .addressed with answers := [ans .isConfigurationValid a 0] }
    Quiet (s 1) ∧ Passive (s 1) ∧ (s 1).cfg.legalPoint (s 1).dev.state .setConfiguration = true
      ∧ saysYes (s 1) .isConfigurationValid = true ∧ StatusInFree (s 1) ∧ saysYes (s 0) .isConfigurationValid = false := by
  decide +kernel

/-- A configured device with endpoint 0 wholly the block's, and the driver's answers. -/
def asked (r0 : Half) (as : List DrvAnswer) : State :=
  { dev .configured with epr := #v[r0, 0x0051, 0, 0, 0, 0, 0, 0x1007], answers := as }

theorem witness_InterfaceResults_get :
    (let s := asked 0xAA20 [ans .getConfiguration 1 0]
     let p := (rq true 0 0 0 1).packet 0 8
     Quiet s ∧ Passive s ∧ s.cfg.legalPoint s.dev.state .getConfiguration = true
      ∧ statusBufSendable ((s.latched p).asked .getConfiguration []) p
          [(answerOf s .getConfiguration).1.extractLsb' 0 8] = true)
      ∧ (let s := asked 0xAA20 [ans .isInterfaceValid 1 0, ans .getInterface 255 0]
         let p := (rq true 1 0 2 1).packet 0 10
         let t := (s.latched p).asked .isInterfaceValid [2]
         Quiet s ∧ Passive s ∧ s.cfg.legalPoint s.dev.state .getInterface = true ∧ saysYes s .isInterfaceValid = true
          ∧ statusBufSendable (t.asked .getInterface [2]) p [(answerOf t .getInterface).1.extractLsb' 0 8] = true) := by
  decide +kernel
theorem witness_InterfaceResults_set :
    (let s := asked 0x2A20 [ans .isInterfaceValid 1 0]
     Quiet s ∧ Passive s ∧ s.cfg.legalPoint s.dev.state .setInterface = true ∧ saysYes s .isInterfaceValid = true
      ∧ StatusInFree s)
      ∧ saysYes (asked 0x2A20 [ans .isInterfaceValid 0 0]) .isInterfaceValid = false := by decide +kernel
theorem witness_GetStatusResult_device :
    let s := asked 0x2A20 [ans .isSelfpowered 1 0, ans .getRemoteWakeup 1 0]
    let p := (rq true 0 0 0 2).packet 0 0
    Quiet s ∧ Passive s ∧ s.cfg.legalPoint s.dev.state .getStatus = true
      ∧ statusBufSendable (((s.latched p).asked .isSelfpowered []).asked .getRemoteWakeup []) p [3, 0] = true := by
  decide +kernel
theorem witness_GetStatusResult_others :
    (let s := asked 0x2A20 [ans .isInterfaceValid 1 0]
     let p := (rq true 1 0 2 2).packet 0 0
     (rq true 1 0 2 2).recip = 1 ∧ saysYes s .isInterfaceValid = true
      ∧ statusBufSendable ((s.latched p).asked .isInterfaceValid [2]) p [0, 0] = true)
      ∧ saysYes (asked 0x2A20 [ans .isInterfaceValid 0 0]) .isInterfaceValid = false
      ∧ (let s := asked 0x2A20 [ans .isEndpointValid 1 0]
         let p := (rq true 2 0 0x0007 2).packet 0 0
         (rq true 2 0 0x0007 2).recip = 2 ∧ ((0x0007 : Half).extractLsb' 0 4).toNat < 8 ∧ saysYes s .isEndpointValid = true
          ∧ statusBufSendable ((s.latched p).asked .isEndpointValid [7, 0]) p [1, 0] = true)
      ∧ saysYes (asked 0x2A20 [ans .isEndpointValid 0 0]) .isEndpointValid = false
      ∧ 8 ≤ ((0x0008 : Half).extractLsb' 0 4).toNat ∧ 2 < (rq true 3 0 0 2).recip.toNat := by decide +kernel
theorem witness_FeatureResults :
    (let s := asked 0x2A20 []
     Quiet s ∧ Passive s ∧ s.cfg.legalPoint s.dev.state .clearFeature = true
      ∧ s.cfg.legalPoint s.dev.state .setFeature = true ∧ StatusInFree s ∧ (rq false 0 1 0 0).recip = 0
      ∧ (rq false 0 1 0 0).wValue = 1)
      ∧ (let s := asked 0x2A20 [ans .isEndpointValid 1 0]
         (rq false 2 0 0x81 0).recip = 2 ∧ (rq false 2 0 0x81 0).wValue = 0 ∧ saysYes s .isEndpointValid = true
          ∧ StatusInFree (s.setEpr 1 (unstalledDir s.epr[1] .dirIn)) ∧ StatusInFree (s.setEpr 7 (stalledDir s.epr[7] .dirOut)))
      ∧ saysYes (asked 0x2A20 [ans .isEndpointValid 0 0]) .isEndpointValid = false
      ∧ 8 ≤ ((0x0088 : Half).extractLsb' 0 4).toNat
      ∧ ((rq false 0 2 0 0).recip = 0 ∧ (rq false 0 2 0 0).wValue ≠ 1)
      ∧ ((rq false 2 1 0 0).recip = 2 ∧ (rq false 2 1 0 0).wValue ≠ 0)
      ∧ ((rq false 1 0 0 0).recip ≠ 0 ∧ (rq false 1 0 0 0).recip ≠ 2) := by decide +kernel
/-- Handler tables that fill only one of the two slots. -/
theorem witness_FeatureResults_oneSlot :
    let s := fun ps : List Point =>
      { asked 0x2A20 [] with cfg := { Params.standard with handlers := { HandlerTable.standard with configured := ps } } }
    ((s [.clearFeature]).cfg.legalPoint (s [.clearFeature]).dev.state .clearFeature = true
      ∧ (s [.clearFeature]).cfg.legalPoint (s [.clearFeature]).dev.state .setFeature = false)
      ∧ ((s [.setFeature]).cfg.legalPoint (s [.setFeature]).dev.state .setFeature = true
        ∧ (s [.setFeature]).cfg.legalPoint (s [.setFeature]).dev.state .clearFeature = false)
      ∧ Quiet (s []) ∧ Passive (s []) ∧ StatusInFree (s []) := by decide +kernel
theorem witness_GetDescriptorResult :
    let r := rq true 0 0x0100 0 64
    let s := { asked 0x2A20 [ans .deviceDescriptor 0x08000100 18] with cpu := mem 0x08000100 [0x12] }
    let u := (s.latched (r.packet 0 6)).asked .deviceDescriptor []
    Quiet s ∧ Passive s ∧ s.cfg.legalPoint s.dev.state .getDescriptor = true
      ∧ descriptorCall r = some (.deviceDescriptor, []) ∧ (answerOf s .deviceDescriptor).2 ≠ 0
      ∧ descriptorMapped s 1 0x08000100 = true ∧ chunkWritable (u.dataInCtx (r.packet 0 6) 0x08000100 18) = true
      ∧ chunkWritable (u.dataInCtx (r.packet 0 6) 0x08000100 0) = true
      ∧ descriptorCall (rq true 0 0x0F00 0 64) = some (.bosDescriptor, [])
      ∧ descriptorCall (rq true 0 0x0400 0 64) = none
      ∧ (answerOf (asked 0x2A20 [ans .bosDescriptor 0x08000100 0]) .bosDescriptor).2 = 0 := by decide +kernel
theorem witness_ForwardResults :
    let s := fun (f : DriverFlags) (as : List DrvAct) =>
      { asked 0x2A20 [{ callee := .cap .classRequest, a := 0, n := 0, acts := as }] with driver := f }
    Quiet (s 0 [])
      ∧ requestOf (.classRequest 0x20 (rq false 1 0 0 7)) = some (some .classPoint, (rq false 1 0 0 7).packet 1 0x20)
      ∧ requestOf (.vendorRequest 6 (rq true 0 0 4 0x28)) = some (some .vendorPoint, (rq true 0 0 4 0x28).packet 2 6)
      ∧ requestOf (.setDescriptor (rq false 0 0 0 0)) = some (some .setDescriptor, (rq false 0 0 0 0).packet 0 7)
      ∧ (s 0 []).cfg.legalPoint (s 0 []).dev.state .classPoint = true
      ∧ (s 0 []).cfg.legalPoint (s 0 []).dev.state .vendorPoint = true
      ∧ (s 0 []).cfg.legalPoint (s 0 []).dev.state .setDescriptor = true
      ∧ hasCap (s 0 []).driver .classRequest = false ∧ hasCap (s 0x10000 []).driver .classRequest = true ∧ Passive (s 0 [])
      ∧ takeAnswer (.cap .classRequest) (s 0x10000 [.call (.prepareDataOut 0x20000200 7 none)]).answers
          = some ({ callee := .cap .classRequest, a := 0, n := 0,
                    acts := [.call (.prepareDataOut 0x20000200 7 none)] }, [])
      ∧ StatusInFree (s 0x10000 [.call .prepareStatusIn]) := by decide +kernel
/-- The driver's answer to a class read, of some bytes and of none, and a Data-Out of count 0. -/
theorem witness_ForwardResults_prepare :
    let p := (rq true 1 0 0 6).packet 1 0xA1
    let s := fun x : Instr => { asked 0x2A20 [{ callee := .cap .classRequest, a := 0, n := 0, acts := [.call x] }] with
      driver := 0x10000, cpu := mem 0x20000200 [1, 2, 3, 4, 5, 6] }
    let u := fun x : Instr => ((s x).latched p).told (.cap .classRequest) [p.key, p.wValue, p.wIndex, p.wLength]
    requestOf (.classRequest 0xA1 (rq true 1 0 0 6)) = some (some .classPoint, p)
      ∧ (takeAnswer (.cap .classRequest) (s (.prepareDataIn 0x20000200 6)).answers).map (·.1.acts)
          = some [.call (.prepareDataIn 0x20000200 6)]
      ∧ chunkWritable ((u (.prepareDataIn 0x20000200 6)).dataInCtx p 0x20000200 6) = true
      ∧ chunkWritable ((u (.prepareDataIn 0x20000200 0)).dataInCtx p 0x20000200 0) = true
      ∧ StatusInFree (s (.prepareDataOut 0x20000200 0 (some 9)))
      ∧ (takeAnswer (.cap .classRequest) (s (.stallEp0 5)).answers).map (·.1.acts) = some [.call (.stallEp0 5)] := by
  decide +kernel

/-! ### Events and the SIE -/

theorem witness_CtrResults :
    (let s := { dev .default with ept := State.reset.ept.set 0 { EptEntry.unregistered with inCb := some 1, outCb := some 1 } }
     Quiet s ∧ Passive s ∧ s.ept[0].callback .dirOut = some 1 ∧ s.ept[0].callback .dirIn = some 1)
      ∧ (dev .default).ept[0].callback .dirOut = none
      ∧ ((7 : BitVec 4).toNat < 8
        ∧ (State.reset.ept.set 7 { EptEntry.unregistered with inCb := some 5 })[7].callback .dirIn = some 5
        ∧ (State.reset.ept.set 7 { EptEntry.unregistered with inCb := some 5 })[7].callback .dirOut = none)
      ∧ 8 ≤ (8 : BitVec 4).toNat := by decide +kernel
theorem witness_BusEventResults :
    Quiet (dev .configured) ∧ (dev .configured).cfg.legal = true ∧ Passive (dev .configured) := by decide +kernel
theorem witness_SieTransactions_none :
    (host 0).daddr.extractLsb' 0 7 ≠ 6 ∧ State.reset.daddr.getLsbD 7 = false
      ∧ (∀ n : Fin 8, eaOf (host 0).epr[n] = 15 → statOf .dirOut (host 0).epr[n] = .disabled
        ∧ statOf .dirIn (host 0).epr[n] = .disabled) := by decide +kernel

/-- The endpoint that a token for address 5, endpoint 0 finds is endpoint 0 with register `r`. -/
abbrev Found (r : Half) : Prop :=
  (host r).daddr.getLsbD 7 = true ∧ (host r).daddr.extractLsb' 0 7 = 5 ∧ eaOf (host r).epr[0] = 0
    ∧ (statOf .dirOut (host r).epr[0] ≠ .disabled ∨ statOf .dirIn (host r).epr[0] ≠ .disabled)

/-- No endpoint comes before endpoint 0. -/
theorem witness_SieTransactions_first : ∀ k : Fin 8, ¬ k < 0 := by decide

/-- Endpoint 0's `COUNT_RX` word can be read. -/
abbrev Readable (s : State) : Prop := 2 * bdIndex s.cfg 0 .countRx + 2 ≤ s.cfg.pmaBytes

/-- A packet of `n` bytes is oversize for endpoint 0's OUT buffer. -/
abbrev Oversize (s : State) (n : Nat) : Prop := rxSize (bdWord s 0 .countRx) < n ∨ 1023 < n

/-- A packet of `n` bytes lands past the packet memory. -/
abbrev Past (s : State) (n : Nat) : Prop := n ≠ 0 ∧ s.cfg.pmaBytes < bufOffset (bdWord s 0 .addrRx) + n

/-- A packet of `n` bytes has room in endpoint 0's OUT buffer. -/
abbrev Room (s : State) (n : Nat) : Prop := Readable s ∧ ¬ Oversize s n ∧ ¬ Past s n

/-- An OUT buffer of 1024 bytes from offset 0x0300. -/
def wide (r : Half) : State := { host r with pma := mem 4 [0x00, 0x03, 0x00, 0xFC] }

/-- The bounds at which a packet has no room: one byte over the buffer, 1024 bytes in a buffer of 1024, past the packet memory by
one byte, and a descriptor that the packet memory does not hold. -/
theorem witness_SieTransactions_noRoom :
    (Readable (host 0x3220) ∧ Oversize (host 0x3220) 65 ∧ ¬ Oversize (host 0x3220) 64)
      ∧ (Readable (wide 0x3220) ∧ rxSize (bdWord (wide 0x3220) 0 .countRx) = 1024 ∧ Oversize (wide 0x3220) 1024
        ∧ ¬ Oversize (wide 0x3220) 1023)
      ∧ (Past (wide 0x3220) 257 ∧ ¬ Oversize (wide 0x3220) 257 ∧ ¬ Past (wide 0x3220) 256 ∧ Room (wide 0x3220) 256)
      ∧ ¬ Readable { host 0x3220 with cfg := { Params.standard with pmaBytes := 7 } } := by decide +kernel
theorem witness_SieTransactions_setup :
    (Found 0x3220 ∧ Room (host 0x3220) 8 ∧ Room (host 0x3220) 64 ∧ typeOf (0x3220 : Half) = .control
        ∧ statOf .dirOut (0x3220 : Half) ≠ .disabled ∧ ctrOf .dirOut (0x3220 : Half) = false)
      ∧ (Found 0x3020 ∧ typeOf (0x3020 : Half) ≠ .control) ∧ (Found 0x0220 ∧ statOf .dirOut (0x0220 : Half) = .disabled)
      ∧ (Found 0xB220 ∧ ctrOf .dirOut (0xB220 : Half) = true) := by decide +kernel
theorem witness_SieTransactions_out :
    (Found 0x3120 ∧ doubleBuffered (0x3120 : Half) = true) ∧ (Found 0x3420 ∧ doubleBuffered (0x3420 : Half) = true)
      ∧ (doubleBuffered (0x0220 : Half) = false ∧ statOf .dirOut (0x0220 : Half) = .disabled)
      ∧ (Found 0x2220 ∧ doubleBuffered (0x2220 : Half) = false ∧ statOf .dirOut (0x2220 : Half) = .nak)
      ∧ (Found 0x1220 ∧ statOf .dirOut (0x1220 : Half) = .stall)
      ∧ (Found 0x3320 ∧ doubleBuffered (0x3320 : Half) = false ∧ statOf .dirOut (0x3320 : Half) = .valid
        ∧ typeOf (0x3320 : Half) = .control ∧ kindOf (0x3320 : Half) = true)
      ∧ (kindOf (0x3220 : Half) = false ∧ rxSize (bdWord (host 0x3220) 0 .countRx) < 65 ∧ Room (host 0x3220) 64) := by
  decide +kernel
theorem witness_SieTransactions_in :
    (Found 0x3200 ∧ statOf .dirIn (0x3200 : Half) = .disabled) ∧ (Found 0x3220 ∧ statOf .dirIn (0x3220 : Half) = .nak)
      ∧ (Found 0x3210 ∧ statOf .dirIn (0x3210 : Half) = .stall)
      ∧ (Found 0x2A30 ∧ doubleBuffered (0x2A30 : Half) = false ∧ statOf .dirIn (0x2A30 : Half) = .valid
        ∧ 2 * bdIndex (host 0x2A30).cfg 0 .countTx + 2 ≤ (host 0x2A30).cfg.pmaBytes
        ∧ bufOffset (bdWord (host 0x2A30) 0 .addrTx) + countOf (bdWord (host 0x2A30) 0 .countTx)
            ≤ (host 0x2A30).cfg.pmaBytes)
      ∧ (let s := { host 0x2A30 with pma := mem 0 [0xFE, 0x03, 0x03, 0x00] }
         s.cfg.pmaBytes < bufOffset (bdWord s 0 .addrTx) + countOf (bdWord s 0 .countTx)
          ∧ faults (exec (.hostIn 5 0) s) .pmaBounds = true)
      ∧ (let c := { Params.standard with pmaBytes := 2 }; c.pmaBytes < 2 * bdIndex c 0 .countTx + 2) := by decide +kernel

end Sys2Proof.Machine.Tests
end

/-! The setup packet (R91): its fields as shifted bytes and as bits of the 64-bit little-endian word. -/

namespace Sys2Proof

/-- R64 with the high byte shifted into place, as R91 writes a multi-byte field. -/
theorem le16_eq_or_shiftLeft (lo hi : Byte) : le16 lo hi = lo.setWidth 16 ||| hi.setWidth 16 <<< 8 := by
  rw [BitVec.or_comm, ← BitVec.setWidth_append_eq_shiftLeft_setWidth_or]
  exact (BitVec.setWidth_eq (hi ++ lo)).symm

/-- The lowest two bytes of a longer word, read as a 16-bit word. -/
theorem extractLsb'_append_append_eq_le16 {n : Nat} (x : BitVec n) (lo hi : Byte) :
    (x ++ hi ++ lo).extractLsb' 0 16 = le16 lo hi := by
  rw [BitVec.append_assoc, BitVec.extractLsb'_cast, BitVec.extractLsb'_append_eq_right, le16]

theorem parseSetup_eq_none_of_length_ne {bs : List Byte} (h : bs.length ≠ 8) : parseSetup bs = none := by
  unfold parseSetup
  split
  · exact absurd rfl h
  · rfl

/-- The fields of a setup packet, each with the high byte of a 16-bit field shifted into place (R91). -/
theorem parseSetup_eq_shifted_bytes (b0 b1 b2 b3 b4 b5 b6 b7 : Byte) :
    parseSetup [b0, b1, b2, b3, b4, b5, b6, b7] = some
      { bmRequestType := b0, bRequest := b1
        wValue := b2.setWidth 16 ||| b3.setWidth 16 <<< 8
        wIndex := b4.setWidth 16 ||| b5.setWidth 16 <<< 8
        wLength := b6.setWidth 16 ||| b7.setWidth 16 <<< 8 } := by
  simp only [parseSetup, le16_eq_or_shiftLeft]

/-- The fields of a setup packet by their places in the 64-bit little-endian word (R91).  The width is left as the sum that
`++` gives it, so that the lemmas about `++` apply. -/
theorem parseSetup_eq_word_fields (b0 b1 b2 b3 b4 b5 b6 b7 : Byte) (w : BitVec (8 + 8 + 8 + 8 + 8 + 8 + 8 + 8))
    (hw : w = b7 ++ b6 ++ b5 ++ b4 ++ b3 ++ b2 ++ b1 ++ b0) :
    parseSetup [b0, b1, b2, b3, b4, b5, b6, b7] = some
      { bmRequestType := w.extractLsb' 0 8, bRequest := w.extractLsb' 8 8, wValue := w.extractLsb' 16 16
        wIndex := w.extractLsb' 32 16, wLength := w.extractLsb' 48 16 } := by
  have hType : w.extractLsb' 0 8 = b0 := by
    rw [hw, BitVec.extractLsb'_append_eq_right]
  -- A field above the lowest byte is found by dropping the bytes below it, one at a time.
  have hRequest : w.extractLsb' 8 8 = b1 := by
    simp only [hw, BitVec.extractLsb'_append_eq_of_le, Nat.reduceSub, le_refl, BitVec.extractLsb'_append_eq_right]
  have hValue : w.extractLsb' 16 16 = le16 b2 b3 := by
    simp only [hw, BitVec.extractLsb'_append_eq_of_le, Nat.reduceLeDiff, Nat.reduceSub, extractLsb'_append_append_eq_le16]
  have hIndex : w.extractLsb' 32 16 = le16 b4 b5 := by
    simp only [hw, BitVec.extractLsb'_append_eq_of_le, Nat.reduceLeDiff, Nat.reduceSub, extractLsb'_append_append_eq_le16]
  have hLength : w.extractLsb' 48 16 = le16 b6 b7 := by
    simp only [hw, BitVec.extractLsb'_append_eq_of_le, Nat.reduceLeDiff, Nat.reduceSub, BitVec.extractLsb'_eq_self, le16]
  rw [hType, hRequest, hValue, hIndex, hLength, parseSetup]

/-- Settles O3: the fields are the bytes shifted into place, which are also the fields of the 64-bit word, and only a list
of eight bytes meets the one pattern that gives a packet. -/
theorem Encoding.parseSetup : Obligations.ParseSetup :=
  ⟨fun b0 b1 b2 b3 b4 b5 b6 b7 =>
    ⟨parseSetup_eq_shifted_bytes b0 b1 b2 b3 b4 b5 b6 b7, parseSetup_eq_word_fields b0 b1 b2 b3 b4 b5 b6 b7 _ rfl⟩,
   fun _ => parseSetup_eq_none_of_length_ne⟩

end Sys2Proof

/-! The endpoint register (spec/41_ep_register.md): what a write does bit by bit (R150, R152), the three-term formula (R153)
as each operation's pseudocode writes it, and the status, stall, kind and completion commands as one read-modify-write each,
whatever SIE steps fall inside it (R151). -/

namespace Sys2Proof.Machine

/-! ### The write rule -/

/-- R150: every bit of the register is of exactly one category. -/
theorem category_masks_partition : ∀ b, b < 16 →
    (plainMask.getLsbD b = true ∧ toggleMask.getLsbD b = false ∧ ctrMask.getLsbD b = false ∧ setupBit.getLsbD b = false)
    ∨ (plainMask.getLsbD b = false ∧ toggleMask.getLsbD b = true ∧ ctrMask.getLsbD b = false ∧ setupBit.getLsbD b = false)
    ∨ (plainMask.getLsbD b = false ∧ toggleMask.getLsbD b = false ∧ ctrMask.getLsbD b = true ∧ setupBit.getLsbD b = false)
    ∨ (plainMask.getLsbD b = false ∧ toggleMask.getLsbD b = false ∧ ctrMask.getLsbD b = false ∧ setupBit.getLsbD b = true) := by
  decide

/-- R150, R152: the write rule bit by bit. -/
theorem eprWrite_getLsbD (r w : Half) {b : Nat} (hb : b < 16) : (eprWrite r w).getLsbD b =
    if plainMask.getLsbD b then w.getLsbD b
    else if toggleMask.getLsbD b then (if w.getLsbD b then !r.getLsbD b else r.getLsbD b)
    else if ctrMask.getLsbD b then (if w.getLsbD b then r.getLsbD b else false)
    else r.getLsbD b := by
  simp only [eprWrite, BitVec.getLsbD_or, BitVec.getLsbD_and, BitVec.getLsbD_xor]
  obtain ⟨hp, ht, hc, hs⟩ | ⟨hp, ht, hc, hs⟩ | ⟨hp, ht, hc, hs⟩ | ⟨hp, ht, hc, hs⟩ := category_masks_partition b hb
  · simp [hp, ht, hc, hs]
  · cases w.getLsbD b <;> simp [hp, ht, hc, hs]
  · cases w.getLsbD b <;> simp [hp, ht, hc, hs]
  · simp [hp, ht, hc, hs]

/-- A write to `EPR[n]` changes that register alone, by the write rule. -/
theorem State.writeReg_epr (s : State) (n : Fin 8) (w : Half) :
    s.writeReg (.epr n) w = s.setEpr n (eprWrite s.epr[n] w) := rfl

/-- Settles O19: the write is `eprWrite` on the one register, and each bit falls under the rule of its category. -/
theorem writeRule : Obligations.WriteRule := by
  intro s n w
  have hget : (s.writeReg (.epr n) w).epr[n] = eprWrite s.epr[n] w := by
    rw [State.writeReg_epr, State.setEpr_get_same]
  refine ⟨fun h => regWrite_quiet h _ w, ?_, fun b hb => ?_⟩
  · rw [hget, State.writeReg_epr]
  · rw [hget]
    exact eprWrite_getLsbD _ _ hb

/-! ### The three-term formula (R153) -/

/-- With the plain bits and both flags kept, the formula is the word of R155 and R156. -/
theorem rmwWord_keep (snap f d : Half) (hd : d &&& f = d) :
    rmwWord snap f d snap 0 = ((snap ^^^ d) &&& (plainMask ||| f)) ||| ctrMask := by
  have hctr : ctrMask &&& ~~~ (0 : Half) = ctrMask := by decide
  rw [rmwWord, hd, hctr, BitVec.xor_self, BitVec.zero_and, BitVec.or_zero]

/-- With no toggle field touched the snapshot drops out of the plain bits: they are the desired ones. -/
theorem rmwWord_plain (snap v c : Half) :
    rmwWord snap 0 0 v c = (v &&& plainMask) ||| (ctrMask &&& ~~~ c) := by
  have hplain : (snap ^^^ ((snap ^^^ v) &&& plainMask)) &&& plainMask = v &&& plainMask := by
    ext i hi
    simp only [BitVec.getElem_and, BitVec.getElem_xor]
    cases plainMask[i] <;> simp
  simp only [rmwWord, BitVec.ofNat_eq_ofNat, BitVec.zero_and, BitVec.zero_or, BitVec.or_zero, hplain]

/-- A status lies within its field. -/
theorem statAt_and_statMask (d : Dir) (st : Stat) : statAt d st &&& statMask d = statAt d st := by
  cases d <;> cases st <;> decide

/-- The word that sets a status, in the constants of R155. -/
theorem statusWord_eq (snap : Half) (d : Dir) (st : Stat) :
    statusWord snap d st
      = ((snap ^^^ (st.code.setWidth 16 : Half) <<< (if d = .dirIn then 4 else 12))
          &&& (0x070F ||| if d = .dirIn then 0x0030 else 0x3000)) ||| 0x8080 := by
  rw [statusWord, rmwWord_keep _ _ _ (statAt_and_statMask d st)]
  cases d <;> rfl

/-- The word that sets `EP_KIND`, in the constants of R159. -/
theorem rmwWord_setKind (snap : Half) :
    rmwWord snap 0 0 (snap ||| kindBit) 0 = ((snap ||| 0x0100) &&& 0x070F) ||| 0x8080 :=
  rmwWord_plain snap _ 0

/-- The word that clears `EP_KIND`, in the constants of R160. -/
theorem rmwWord_clearKind (snap : Half) :
    rmwWord snap 0 0 (snap &&& ~~~ kindBit) 0 = ((snap &&& ~~~ 0x0100) &&& 0x070F) ||| 0x8080 :=
  rmwWord_plain snap _ 0

/-- The word that clears one completion flag, in the constants of R165. -/
theorem rmwWord_clearFlag (snap : Half) (d : Dir) :
    rmwWord snap 0 0 snap (ctrBit d)
      = (snap &&& 0x070F) ||| (0x8080 &&& ~~~ if d = .dirIn then 0x0080 else 0x8000) := by
  rw [rmwWord_plain]
  cases d <;> rfl

/-! ### The commands -/

/-- A command on an endpoint, called by a writer, is its body on that endpoint. -/
theorem outcome_command {s : State} {n : Byte} (hw : Writer s) (hn : n.toNat < 8) (k : Fin 8 → M Unit) :
    outcome (do requireWriter; let e ← epIndex n; k e) s = outcome (k (epOf n hn)) s := by
  simp only [outcome, bind_ok (requireWriter_ok hw), bind_ok (epIndex_ok hn s)]

/-- R324: a command on an endpoint above 7 is `Fault(BAD_EP)`. -/
theorem outcome_command_badEp {s : State} {n : Byte} (hw : Writer s) (hn : 8 ≤ n.toNat) (k : Fin 8 → M Unit) :
    outcome (do requireWriter; let e ← epIndex n; k e) s = .fault .badEp :=
  outcome_fault ((bind_ok (requireWriter_ok hw)).trans (bind_error (epIndex_fault (Nat.not_lt.2 hn) s)))

/-- `ep_get_stall` as a command on an endpoint: one read, and the answer 1 or 0 (R158). -/
theorem exec_epGetStall (n : Byte) (d : Dir) (s : State) :
    exec (.epGetStall n d) s = outcome (do
      requireWriter
      let e ← epIndex n
      let snap ← regRead (.epr e)
      upd fun t => { t with ret := if statOf d snap = .stall then 1 else 0 }) s := by
  have hret : ∀ snap : Half, (BitVec.ofBool (statOf d snap == .stall)).setWidth 16
      = if statOf d snap = .stall then (1 : Half) else 0 := by
    intro snap
    cases statOf d snap <;> decide
  show execEpGetStall n d s = _
  simp only [execEpGetStall, epGetStall, returnValue, bind_assoc, pure_bind, hret]

/-- `ep_clear_transfer_complete` as a command on an endpoint: one read-modify-write, whose snapshot is returned (R165). -/
theorem exec_epClearTransferComplete (n : Byte) (d : Dir) (s : State) :
    exec (.epClearTransferComplete n d) s = outcome (do
      requireWriter
      let e ← epIndex n
      let snap ← clearCompleteAt e d
      upd fun t => { t with ret := snap }) s := by
  show execEpClearTransferComplete n d s = _
  simp only [execEpClearTransferComplete, epClearTransferComplete, returnValue, bind_assoc]

/-- Settles O22: each command is its body on the endpoint, and the body's word is the pseudocode's. -/
theorem writtenWords : Obligations.WrittenWords := by
  intro s n d st hw
  refine ⟨fun hn => ⟨?_, ?_, ?_, ?_, ?_, ?_⟩, fun hn => ⟨?_, ?_, ?_, ?_, ?_, ?_⟩⟩
  · simp only [← statusWord_eq]
    exact outcome_command hw hn fun e => setStatusAt e d st
  · simp only [← statusWord_eq]
    exact outcome_command hw hn fun e => setStallAt e d
  · exact (exec_epGetStall n d s).trans (outcome_command hw hn _)
  · simp only [← rmwWord_setKind]
    exact outcome_command hw hn setKindAt
  · simp only [← rmwWord_clearKind]
    exact outcome_command hw hn clearKindAt
  · simp only [← rmwWord_clearFlag]
    exact (exec_epClearTransferComplete n d s).trans (outcome_command hw hn _)
  · exact outcome_command_badEp hw hn fun e => setStatusAt e d st
  · exact outcome_command_badEp hw hn fun e => setStallAt e d
  · exact (exec_epGetStall n d s).trans (outcome_command_badEp hw hn _)
  · exact outcome_command_badEp hw hn setKindAt
  · exact outcome_command_badEp hw hn clearKindAt
  · exact (exec_epClearTransferComplete n d s).trans (outcome_command_badEp hw hn _)

end Sys2Proof.Machine

/-! Decoding inverts encoding (R91 to R103), kind by kind, and what decodes is well formed and encodes back. -/

namespace Sys2Proof

/-! ### Setup packets (R91, R99) -/

@[simp] theorem parseSetup_bytes (p : SetupPacket) : parseSetup p.bytes = some p := by
  simp [SetupPacket.bytes, parseSetup]

/-- A setup packet in eight bytes decodes as the packet does. -/
theorem decode_setup8_bytes (p : SetupPacket) : decode (.setup8 p.bytes) = .ok (decodeSetup p) := by
  simp [decode]

/-- `TYPE` of a request's packet is the type it is made with (R92). -/
@[simp] theorem Req.packet_type (ty : BitVec 2) (b : Byte) (r : Req) : (r.packet ty b).type = ty := by
  show (BitVec.ofBool r.dir ++ ty ++ r.recip : BitVec (1 + 2 + 5)).extractLsb' 5 2 = ty
  simp only [BitVec.extractLsb'_append_eq_of_le, le_refl, Nat.sub_self, BitVec.extractLsb'_append_eq_right]

/-- The free fields of a request's packet are the request's (R92, R98). -/
@[simp] theorem Req.packet_req (ty : BitVec 2) (b : Byte) (r : Req) : (r.packet ty b).req = r := by
  have hdir : (BitVec.ofBool r.dir ++ ty ++ r.recip : BitVec (1 + 2 + 5)).getLsbD 7 = r.dir := by
    simp only [BitVec.getLsbD_append]
    simp
  have hrecip : (BitVec.ofBool r.dir ++ ty ++ r.recip : BitVec (1 + 2 + 5)).extractLsb' 0 5 = r.recip :=
    BitVec.extractLsb'_append_eq_right
  simp only [SetupPacket.req, Req.packet]
  rw [hdir, hrecip]

/-- A standard request's packet goes to the switch on `bRequest` (R93, R99). -/
theorem decode_packet_standard (b : Byte) (r : Req) :
    decode (.setup8 (r.packet 0 b).bytes) = .ok (decodeStd b r) := by
  rw [decode_setup8_bytes, decodeSetup, Req.packet_type, Req.packet_req]
  rfl

/-- A packet of another type decodes to its type's row, whatever its code (R99). -/
theorem decode_packet_other (b : Byte) (r : Req) :
    decode (.setup8 (r.packet 1 b).bytes) = .ok (.classRequest b r)
    ∧ decode (.setup8 (r.packet 2 b).bytes) = .ok (.vendorRequest b r)
    ∧ decode (.setup8 (r.packet 3 b).bytes) = .ok (.reservedType b r) := by
  simp only [decode_setup8_bytes, decodeSetup, Req.packet_type, Req.packet_req]
  exact ⟨rfl, rfl, rfl⟩

/-- A code that is none of the eleven is the undefined row (R99). -/
theorem decodeStd_undefined {b : Byte} (h : b ∉ definedStdCodes) (r : Req) : decodeStd b r = .stdUndefined b r := by
  simp only [definedStdCodes, List.mem_cons, List.not_mem_nil, or_false, not_or] at h
  obtain ⟨h0, h1, h3, h5, h6, h7, h8, h9, h10, h11, h12⟩ := h
  simp only [decodeStd, h0, h1, h3, h5, h6, h7, h8, h9, h10, h11, h12, if_false]

/-! ### Command records (R102) -/

/-- Arguments that the table of the core commands reads are the command's (R102). -/
theorem decode_call_core {id : Byte} {as : List Byte} {i : Instr} (ha : (callArgBytes id.toNat).isSome = true)
    (h : decodeCoreCall id.toNat as = some i) : decode (.call8 (id :: as)) = .ok i := by
  obtain ⟨k, hk⟩ := Option.isSome_iff_exists.1 ha
  simp only [decode, decodeCall, hk, h]

/-- Arguments that the table of the endpoint-table commands reads are the command's (R102). -/
theorem decode_call_table {id : Byte} {as : List Byte} {i : Instr} (ha : (callArgBytes id.toNat).isSome = true)
    (hc : decodeCoreCall id.toNat as = none) (h : decodeTableCall id.toNat as = some i) :
    decode (.call8 (id :: as)) = .ok i := by
  obtain ⟨k, hk⟩ := Option.isSome_iff_exists.1 ha
  simp only [decode, decodeCall, hk, hc, h]

/-- Arguments that the table of the endpoint-register commands reads are the command's (R102). -/
theorem decode_call_register {id : Byte} {as : List Byte} {i : Instr} (ha : (callArgBytes id.toNat).isSome = true)
    (hc : decodeCoreCall id.toNat as = none) (ht : decodeTableCall id.toNat as = none)
    (h : decodeEpCall id.toNat as = some i) : decode (.call8 (id :: as)) = .ok i := by
  obtain ⟨k, hk⟩ := Option.isSome_iff_exists.1 ha
  simp only [decode, decodeCall, hk, hc, ht, h]

/-- A command that starts by reading a transfer type reads the type that was encoded. -/
theorem bind_ofByte_code {α : Type} (ty : EpType) (f : EpType → Option α) :
    (EpType.ofByte (byteOfCode ty.code) >>= f) = f ty := by
  rw [EpType.ofByte_code]
  rfl

/-! ### Token records (R103) -/

/-- A value widened and cut back to its own width is itself. -/
theorem extractLsb'_zero_setWidth {n w : Nat} (x : BitVec n) (h : n ≤ w) : (x.setWidth w).extractLsb' 0 n = x :=
  (BitVec.extractLsb'_setWidth_of_le (by omega)).trans BitVec.extractLsb'_eq_self

/-- The address and endpoint bytes of a token record give the address and the endpoint back. -/
theorem decode_encodeToken (pid : Byte) (a : BitVec 7) (e : BitVec 4) (data : List Byte) (h : pid = pidSetup ∨ pid = pidOut ∨ pid = pidIn) :
    decode (encodeToken pid a e data) =
      if pid = pidSetup then .ok (.hostSetup a e data)
      else if pid = pidOut then .ok (.hostOut a e data)
      else if data = [] then .ok (.hostIn a e)
      else .error .badToken := by
  have ha : (a.setWidth 8).getLsbD 7 = false := by simp
  have he : (e.setWidth 8).extractLsb' 4 4 = 0 := by
    ext i hi
    simp
  simp only [decode, encodeToken, decodeToken, if_pos h, ha, he, extractLsb'_zero_setWidth a (w := 8) (by decide),
    extractLsb'_zero_setWidth e (w := 8) (by decide), and_self, if_true]

theorem decode_sof (f : BitVec 11) : decode (.token (pidSof :: bytes16 (f.setWidth 16))) = .ok (.hostSof f) := by
  have hpid : ¬ (pidSof = pidSetup ∨ pidSof = pidOut ∨ pidSof = pidIn) := by decide
  have hfree : (byteAt (f.setWidth 16) 1).extractLsb' 3 5 = 0 := by
    ext i hi
    have h : 11 ≤ 8 + (3 + i) := by omega
    simp [byteAt, BitVec.getLsbD_of_ge _ _ h]
  simp only [decode, bytes16, decodeToken, if_neg hpid, if_true, hfree, le16_byteAt,
    extractLsb'_zero_setWidth f (w := 16) (by decide)]

/-! ### Every instruction -/

/-- Settles O1: each kind of input gives its operands back. -/
theorem decodeEncode : Obligations.DecodeEncode := by
  intro i hwf
  cases i with
  | stdUndefined b r =>
    have hb : b ∉ definedStdCodes := by simpa [WellFormed, Instr.wf] using hwf
    exact (decode_packet_standard b r).trans (by rw [decodeStd_undefined hb])
  | classRequest b r => exact (decode_packet_other b r).1
  | vendorRequest b r => exact (decode_packet_other b r).2.1
  | reservedType b r => exact (decode_packet_other b r).2.2
  | getStatus r => exact decode_packet_standard 0 r
  | clearFeature r => exact decode_packet_standard 1 r
  | setFeature r => exact decode_packet_standard 3 r
  | setAddress r => exact decode_packet_standard 5 r
  | getDescriptor r => exact decode_packet_standard 6 r
  | setDescriptor r => exact decode_packet_standard 7 r
  | getConfiguration r => exact decode_packet_standard 8 r
  | setConfiguration r => exact decode_packet_standard 9 r
  | getInterface r => exact decode_packet_standard 10 r
  | setInterface r => exact decode_packet_standard 11 r
  | synchFrame r => exact decode_packet_standard 12 r
  | ctrEpnOut n =>
    revert n
    decide
  | ctrEpnIn n =>
    revert n
    decide
  | ctrEp0Out | ctrEp0In | evReset | evWkup | evSusp | evSof => rfl
  | stageSetup | stageDataIn | stageDataOut | stageStatusIn | stageStatusOut => rfl
  | prepareDataIn buf count =>
    refine decode_call_core rfl ?_
    show some (Instr.prepareDataIn (le32 _ _ _ _) (le32 _ _ _ _)) = _
    simp only [le32_byteAt]
  | prepareDataOut buf count cb =>
    refine decode_call_core rfl ?_
    show some (Instr.prepareDataOut (le32 _ _ _ _) (le32 _ _ _ _) (cbOfWord (le16 _ _))) = _
    simp only [le32_byteAt, le16_byteAt, cbOfWord_cbWord hwf]
  | prepareStatusIn => rfl
  | pmaRead offset dst count =>
    refine decode_call_core rfl ?_
    show some (Instr.pmaRead (le16 _ _) (le32 _ _ _ _) (le16 _ _)) = _
    simp only [le32_byteAt, le16_byteAt]
  | pmaWrite src offset count =>
    refine decode_call_core rfl ?_
    show some (Instr.pmaWrite (le32 _ _ _ _) (le16 _ _) (le16 _ _)) = _
    simp only [le32_byteAt, le16_byteAt]
  | coreInit d =>
    refine decode_call_core rfl ?_
    show (driverOfWord (le32 _ _ _ _) >>= fun d => some (Instr.coreInit d)) = _
    simp only [le32_byteAt, driverOfWord_driverWord, Option.bind_eq_bind, Option.bind_some]
  | stallEp0 c => exact decode_call_core rfl (if_pos hwf)
  | registerEndpoint ep ty txAddr rxAddr rxCount cbIn cbOut =>
    have hcb : cbOk cbIn = true ∧ cbOk cbOut = true := (Bool.and_eq_true _ _).mp hwf
    refine decode_call_table rfl rfl ((bind_ofByte_code ty _).trans ?_)
    simp only [le16_byteAt, cbOfWord_cbWord hcb.1, cbOfWord_cbWord hcb.2]
  | registerEndpointTx ep ty txAddr cb | registerEndpointRx ep ty rxAddr rxCount cb
  | registerEndpointDoubleTx ep ty addr0 addr1 cb | registerEndpointDoubleRx ep ty addr0 addr1 rxCount cb =>
    refine decode_call_table rfl rfl ((bind_ofByte_code ty _).trans ?_)
    simp only [le16_byteAt, cbOfWord_cbWord hwf]
  | unregisterEndpoint ep => rfl
  | epConfigure n ty txAddr rxAddr rxCount | epConfigureTx n ty txAddr | epConfigureRx n ty rxAddr rxCount
  | epConfigureDoubleTx n ty addr0 addr1 | epConfigureDoubleRx n ty addr0 addr1 rxCount =>
    refine decode_call_register rfl rfl rfl ((bind_ofByte_code ty _).trans ?_)
    simp only [le16_byteAt]
  | epClearConfiguration n | epSetKind n | epClearKind n => rfl
  | epSetStall n dir | epClearStall n dir | epGetStall n dir | epClearTransferComplete n dir => cases dir <;> rfl
  | epSetStatus n dir st => cases dir <;> cases st <;> rfl
  | hostSetup a e d => exact decode_encodeToken pidSetup a e d (by decide)
  | hostOut a e d => exact decode_encodeToken pidOut a e d (by decide)
  | hostIn a e => exact decode_encodeToken pidIn a e [] (by decide)
  | hostSof f => exact decode_sof f
  | hostBusReset | hostSuspend | hostResume => rfl

end Sys2Proof

/-! What decodes is well formed and, snapshots apart, the encoding of what it decodes to (R90 to R103). -/

namespace Sys2Proof

/-! ### Operands -/

@[simp] theorem bytes16_le16 (lo hi : Byte) : bytes16 (le16 lo hi) = [lo, hi] := by
  simp [bytes16]

@[simp] theorem bytes32_le32 (b0 b1 b2 b3 : Byte) : bytes32 (le32 b0 b1 b2 b3) = [b0, b1, b2, b3] := by
  have h0 : byteAt (le32 b0 b1 b2 b3) 0 = byteAt (le16 b0 b1) 0 := BitVec.extractLsb'_append_eq_of_add_le (by decide)
  have h1 : byteAt (le32 b0 b1 b2 b3) 1 = byteAt (le16 b0 b1) 1 := BitVec.extractLsb'_append_eq_of_add_le (by decide)
  have h2 : byteAt (le32 b0 b1 b2 b3) 2 = byteAt (le16 b2 b3) 0 := BitVec.extractLsb'_append_eq_of_le (by decide)
  have h3 : byteAt (le32 b0 b1 b2 b3) 3 = byteAt (le16 b2 b3) 1 := BitVec.extractLsb'_append_eq_of_le (by decide)
  simp only [bytes32, h0, h1, h2, h3, byteAt_le16_low, byteAt_le16_high]

@[simp] theorem cbWord_cbOfWord (w : Half) : cbWord (cbOfWord w) = w := by
  unfold cbOfWord
  split
  · rename_i h
    exact h.symm
  · rfl

@[simp] theorem cbOk_cbOfWord (w : Half) : cbOk (cbOfWord w) = true := by
  unfold cbOfWord
  split
  · rfl
  · rename_i h
    simpa [cbOk] using h

theorem byteOfCode_of_epType {b : Byte} {t : EpType} (h : EpType.ofByte b = some t) : byteOfCode t.code = b := by
  revert b t
  decide

theorem byteOfCode_of_stat {b : Byte} {st : Stat} (h : Stat.ofByte b = some st) : byteOfCode st.code = b := by
  revert b st
  decide

theorem code_of_dir {b : Byte} {d : Dir} (h : Dir.ofByte b = some d) : d.code = b := by
  revert b d
  decide

theorem driverWord_of_driver {w : Addr} {d : Option DriverFlags} (h : driverOfWord w = some d) : driverWord d = w := by
  unfold driverOfWord at h
  split at h
  · rename_i h0
    cases h
    exact h0.symm
  · split at h
    · rename_i hmark
      cases h
      show (0x400#11) ++ w.extractLsb' 0 21 = w
      rw [← hmark]
      exact (BitVec.extractLsb'_append_extractLsb'_eq_extractLsb' rfl).trans BitVec.extractLsb'_eq_self
    · cases h

/-! ### Command records (R102) -/

/-- What a table of commands reads is well formed, and encodes as the id with the arguments read. -/
def SoundCall (id : Nat) (as : List Byte) (i : Instr) : Prop :=
  WellFormed i ∧ encode i = .call8 (BitVec.ofNat 8 id :: as)

/-- The assigned ids of the core commands (R102). -/
theorem core_id_of_decode {id : Nat} {as : List Byte} {i : Instr} (ha : callArgBytes id ≠ none)
    (h : decodeCoreCall id as = some i) : id ∈ [0x01, 0x02, 0x03, 0x04, 0x05, 0x0C, 0x20] := by
  unfold callArgBytes at ha
  split at ha <;> first | decide | cases h | exact absurd rfl ha

/-- A command whose one operand byte must be a code: it is sound if it is for every operand that the byte codes. -/
theorem SoundCall.of_bind {α : Type} {id : Nat} {as : List Byte} {i : Instr} {o : Option α} {f : α → Instr}
    (h : (o >>= fun x => some (f x)) = some i) (hs : ∀ x, o = some x → SoundCall id as (f x)) : SoundCall id as i := by
  obtain ⟨x, hx, hi⟩ := Option.bind_eq_some_iff.1 h
  cases hi
  exact hs x hx

/-- The core commands, id by id: only an argument list of the command's length reads (R102). -/
theorem decodeCoreCall_sound {id : Nat} {as : List Byte} {i : Instr} (ha : callArgBytes id ≠ none)
    (h : decodeCoreCall id as = some i) : SoundCall id as i := by
  have hid := core_id_of_decode ha h
  simp only [List.mem_cons, List.not_mem_nil, or_false] at hid
  obtain rfl | rfl | rfl | rfl | rfl | rfl | rfl := hid
  · rcases as with _ | ⟨a0, _ | ⟨a1, _ | ⟨a2, _ | ⟨a3, _ | ⟨c0, _ | ⟨c1, _ | ⟨c2, _ | ⟨c3, _ | ⟨_, _⟩⟩⟩⟩⟩⟩⟩⟩⟩ <;> cases h
    exact ⟨rfl, by simp [encode]⟩
  · rcases as with _ | ⟨a0, _ | ⟨a1, _ | ⟨a2, _ | ⟨a3, _ | ⟨c0, _ | ⟨c1, _ | ⟨c2, _ | ⟨c3, _ | ⟨f0, _ | ⟨f1, _ | ⟨_, _⟩⟩⟩⟩⟩⟩⟩⟩⟩⟩⟩
      <;> cases h
    exact ⟨cbOk_cbOfWord _, by simp [encode]⟩
  · rcases as with _ | ⟨_, _⟩ <;> cases h
    exact ⟨rfl, rfl⟩
  · rcases as with _ | ⟨o0, _ | ⟨o1, _ | ⟨a0, _ | ⟨a1, _ | ⟨a2, _ | ⟨a3, _ | ⟨c0, _ | ⟨c1, _ | ⟨_, _⟩⟩⟩⟩⟩⟩⟩⟩⟩ <;> cases h
    exact ⟨rfl, by simp [encode]⟩
  · rcases as with _ | ⟨a0, _ | ⟨a1, _ | ⟨a2, _ | ⟨a3, _ | ⟨o0, _ | ⟨o1, _ | ⟨c0, _ | ⟨c1, _ | ⟨_, _⟩⟩⟩⟩⟩⟩⟩⟩⟩ <;> cases h
    exact ⟨rfl, by simp [encode]⟩
  · rcases as with _ | ⟨d0, _ | ⟨d1, _ | ⟨d2, _ | ⟨d3, _ | ⟨_, _⟩⟩⟩⟩⟩
    case cons.cons.cons.cons.nil =>
      exact .of_bind h fun d hd => ⟨rfl, by simp [encode, driverWord_of_driver hd]⟩
    all_goals cases h
  · rcases as with _ | ⟨c, _ | ⟨_, _⟩⟩
    case cons.nil =>
      obtain ⟨hc, hi⟩ := Option.ite_none_right_eq_some.1 h
      cases hi
      exact ⟨hc, rfl⟩
    all_goals cases h

/-- The endpoint-table commands: the type byte is a type's code (R102). -/
theorem decodeTableCall_sound {id : Nat} {as : List Byte} {i : Instr} (h : decodeTableCall id as = some i) :
    SoundCall id as i := by
  unfold decodeTableCall at h
  split at h
  case h_6 =>
    cases h
    exact ⟨rfl, rfl⟩
  case h_7 => cases h
  all_goals exact .of_bind h fun ty hty => ⟨by simp [WellFormed, Instr.wf], by simp [encode, byteOfCode_of_epType hty]⟩

/-- The endpoint-register commands: the type, direction and status bytes are codes (R102). -/
theorem decodeEpCall_sound {id : Nat} {as : List Byte} {i : Instr} (h : decodeEpCall id as = some i) :
    SoundCall id as i := by
  unfold decodeEpCall at h
  split at h
  case h_1 | h_2 | h_3 | h_4 | h_5 =>
    exact .of_bind h fun ty hty => ⟨rfl, by simp [encode, byteOfCode_of_epType hty]⟩
  case h_6 | h_11 | h_12 =>
    cases h
    exact ⟨rfl, rfl⟩
  case h_7 | h_8 | h_9 | h_13 =>
    exact .of_bind h fun d hd => ⟨rfl, by simp [encode, code_of_dir hd]⟩
  case h_10 =>
    obtain ⟨d, hd, h⟩ := Option.bind_eq_some_iff.1 h
    exact .of_bind h fun st hst => ⟨rfl, by simp [encode, code_of_dir hd, byteOfCode_of_stat hst]⟩
  case h_14 => cases h

theorem decodeCall_sound {bs : List Byte} {i : Instr} (h : decodeCall bs = .ok i) :
    WellFormed i ∧ encode i = .call8 bs := by
  cases bs with
  | nil => cases h
  | cons id as =>
    have hid : BitVec.ofNat 8 id.toNat = id := by simp
    suffices SoundCall id.toNat as i by rwa [SoundCall, hid] at this
    unfold decodeCall at h
    cases ha : callArgBytes id.toNat with
    | none => simp [ha] at h
    | some k =>
      simp only [ha] at h
      split at h
      · cases h
        exact decodeCoreCall_sound (by simp [ha]) ‹_›
      · cases h
        exact decodeTableCall_sound ‹_›
      · cases h
        exact decodeEpCall_sound ‹_›
      · cases h

/-! ### Setup packets, snapshots and stages -/

theorem bytes_of_parseSetup {bs : List Byte} {p : SetupPacket} (h : parseSetup bs = some p) : p.bytes = bs := by
  unfold parseSetup at h
  split at h
  · cases h
    simp [SetupPacket.bytes]
  · cases h

/-- A packet is that of its type, its code and its free fields (R92). -/
theorem packet_of_fields (p : SetupPacket) : p.req.packet p.type p.bRequest = p := by
  have h : ∀ b : Byte, BitVec.ofBool (b.getLsbD 7) ++ b.extractLsb' 5 2 ++ b.extractLsb' 0 5 = b := by decide
  simp only [Req.packet, SetupPacket.req, SetupPacket.type, h]

/-- The switch on `bRequest` gives a well-formed request, which encodes with that code (R93, R99). -/
theorem decodeStd_sound (b : Byte) (r : Req) :
    WellFormed (decodeStd b r) ∧ encode (decodeStd b r) = .setup8 (r.packet 0 b).bytes := by
  by_cases hb : b ∈ definedStdCodes
  · simp only [definedStdCodes, List.mem_cons, List.not_mem_nil, or_false] at hb
    obtain rfl | rfl | rfl | rfl | rfl | rfl | rfl | rfl | rfl | rfl | rfl := hb <;> exact ⟨rfl, rfl⟩
  · rw [decodeStd_undefined hb]
    exact ⟨by simpa [WellFormed, Instr.wf] using hb, rfl⟩

theorem decodeSetup_sound (p : SetupPacket) : WellFormed (decodeSetup p) ∧ encode (decodeSetup p) = .setup8 p.bytes := by
  have htype : ∀ t : BitVec 2, t = 0 ∨ t = 1 ∨ t = 2 ∨ t = 3 := by decide
  have hp := packet_of_fields p
  obtain h | h | h | h := htype p.type
  · have hd : decodeSetup p = decodeStd p.bRequest p.req := if_pos h
    rw [h] at hp
    rw [hd]
    exact (decodeStd_sound p.bRequest p.req).imp_right (·.trans (congrArg (fun q => Enc.setup8 q.bytes) hp))
  all_goals
    rw [h] at hp
    simp only [decodeSetup, h]
    exact ⟨rfl, congrArg (fun q : SetupPacket => Enc.setup8 q.bytes) hp⟩

/-- An event is well formed: an endpoint's completion is read only off a number other than 0 (R100). -/
theorem decodeIstr_wellFormed {w : Half} {i : Instr} (h : decodeIstr w = some i) : WellFormed i := by
  unfold decodeIstr at h
  by_cases hn : w.extractLsb' 0 4 = 0
  · split_ifs at h <;> cases h <;> rfl
  · have hwf : (w.extractLsb' 0 4 != 0) = true := bne_iff_ne.2 hn
    rw [if_neg hn] at h
    split_ifs at h <;> cases h
    · exact hwf
    · exact hwf
    all_goals rfl

theorem decodeStage_sound {w : BitVec 3} {i : Instr} (h : decodeStage w = some i) :
    WellFormed i ∧ encode i = .stage3 w := by
  revert w i
  decide

/-! ### Token records (R103) -/

/-- A value with no bit set above the lowest `n` is its lowest `n` bits, widened. -/
theorem setWidth_extractLsb'_zero {n m : Nat} {x : BitVec (m + n)} (h : x.extractLsb' n m = 0) :
    (x.extractLsb' 0 n).setWidth (m + n) = x := by
  have hx : x.extractLsb' n m ++ x.extractLsb' 0 n = x :=
    (BitVec.extractLsb'_append_extractLsb'_eq_extractLsb' (Nat.zero_add n).symm).trans BitVec.extractLsb'_eq_self
  rw [h] at hx
  conv => rhs; rw [← hx]
  exact (BitVec.setWidth_eq_append (by omega)).trans (by ext i hi; simp)

/-- The header of a token record is that of the token read from it. -/
theorem encodeToken_header {pid a e : Byte} {data : List Byte} (ha : a.getLsbD 7 = false) (he : e.extractLsb' 4 4 = 0) :
    encodeToken pid (a.extractLsb' 0 7) (e.extractLsb' 0 4) data = .token (pid :: a :: e :: data) := by
  have ha' : (a.extractLsb' 0 7).setWidth 8 = a := setWidth_extractLsb'_zero (n := 7) (m := 1) (by
    revert ha; revert a; decide)
  have he' : (e.extractLsb' 0 4).setWidth 8 = e := setWidth_extractLsb'_zero (n := 4) (m := 4) he
  rw [encodeToken, ha', he']

/-- The frame number of an SOF record is that of the token read from it. -/
theorem bytes16_frame {f0 f1 : Byte} (h : f1.extractLsb' 3 5 = 0) :
    bytes16 (((le16 f0 f1).extractLsb' 0 11).setWidth 16) = [f0, f1] := by
  have hw : (le16 f0 f1).extractLsb' 11 5 = 0 := (BitVec.extractLsb'_append_eq_of_le (by decide)).trans h
  rw [setWidth_extractLsb'_zero (n := 11) (m := 5) hw, bytes16_le16]

theorem decodeToken_sound {bs : List Byte} {i : Instr} (h : decodeToken bs = .ok i) :
    WellFormed i ∧ encode i = .token bs := by
  obtain _ | ⟨pid, rest⟩ := bs
  · cases h
  unfold decodeToken at h
  dsimp only at h
  by_cases hpid : pid = pidSetup ∨ pid = pidOut ∨ pid = pidIn
  · obtain _ | ⟨a, _ | ⟨e, data⟩⟩ := rest <;> simp only [if_pos hpid, reduceCtorEq] at h
    split_ifs at h with hfree hs ho hd <;> cases h
    · rw [hs]
      exact ⟨rfl, encodeToken_header hfree.1 hfree.2⟩
    · rw [ho]
      exact ⟨rfl, encodeToken_header hfree.1 hfree.2⟩
    · have hi : pid = pidIn := (hpid.resolve_left hs).resolve_left ho
      rw [hi, hd]
      exact ⟨rfl, encodeToken_header hfree.1 hfree.2⟩
  · rw [if_neg hpid] at h
    by_cases hs : pid = pidSof
    case neg =>
      rw [if_neg hs] at h
      cases h
    rw [if_pos hs] at h
    obtain _ | ⟨f0, _ | ⟨f1, _ | ⟨_, _⟩⟩⟩ := rest
    case cons.cons.nil =>
      dsimp only at h
      split_ifs at h with hfree
      cases h
      rw [hs]
      exact ⟨rfl, congrArg (fun l => Enc.token (pidSof :: l)) (bytes16_frame hfree)⟩
    all_goals cases h

/-! ### Every input -/

/-- Settles O2: each kind of input on its own. -/
theorem decodeSound : Obligations.DecodeSound := by
  intro e i h
  cases e with
  | setup8 bs =>
    cases hp : parseSetup bs with
    | none => simp [decode, hp] at h
    | some p =>
      simp only [decode, hp] at h
      cases h
      rw [← bytes_of_parseSetup hp]
      exact (decodeSetup_sound p).imp_right fun he _ => he
  | istr16 w =>
    cases hw : decodeIstr w with
    | none => simp [decode, hw] at h
    | some j =>
      simp only [decode, hw] at h
      cases h
      exact ⟨decodeIstr_wellFormed hw, fun hne => absurd rfl (hne w)⟩
  | stage3 w =>
    cases hw : decodeStage w with
    | none => simp [decode, hw] at h
    | some j =>
      simp only [decode, hw] at h
      cases h
      exact (decodeStage_sound hw).imp_right fun he _ => he
  | call8 bs => exact (decodeCall_sound h).imp_right fun he _ => he
  | token bs => exact (decodeToken_sound h).imp_right fun he _ => he
  | event e =>
    cases h
    cases e <;> exact ⟨rfl, fun _ => rfl⟩

end Sys2Proof

/-! The decode tables as rows of masks (R99 to R102), and what a step fetches and runs (R70, R90). -/

namespace Sys2Proof

/-! ### Bits under a mask -/

/-- A masked value tells each bit that the mask keeps. -/
theorem getLsbD_of_and_eq {n : Nat} {w m c : BitVec n} (h : w &&& m = c) (i : Nat) (b : Bool)
    (hm : m.getLsbD i = true := by decide) (hc : c.getLsbD i = b := by decide) : w.getLsbD i = b := by
  rw [← hc, ← h, BitVec.getLsbD_and, hm, Bool.and_true]

/-- A masked value tells each field that the mask keeps whole. -/
theorem extractLsb'_of_and_eq {n k l : Nat} {w m c : BitVec n} (h : w &&& m = c)
    (hm : m.extractLsb' k l = BitVec.allOnes l) : w.extractLsb' k l = c.extractLsb' k l := by
  rw [← h, BitVec.extractLsb'_and, hm, BitVec.and_allOnes]

/-! ### Setup packets (R99) -/

theorem SetupPacket.key_bRequest (p : SetupPacket) : p.key.extractLsb' 8 8 = p.bRequest := by
  exact (BitVec.extractLsb'_append_eq_of_le (by decide)).trans BitVec.extractLsb'_eq_self

theorem SetupPacket.key_type (p : SetupPacket) : p.key.extractLsb' 5 2 = p.type :=
  BitVec.extractLsb'_append_eq_of_add_le (by decide)

/-- A row of a standard request: the key under the mask of code and type is the code over type 0. -/
theorem decodeSetup_row {p : SetupPacket} (b : Byte) (h : p.key &&& 0xFF60 = b ++ (0 : Byte)) :
    decodeSetup p = decodeStd b p.req := by
  have ht : p.type = 0 := by
    rw [← p.key_type, extractLsb'_of_and_eq h (by decide)]
    exact (BitVec.extractLsb'_append_eq_of_add_le (by decide)).trans (by decide)
  have hb : p.bRequest = b := by
    rw [← p.key_bRequest, extractLsb'_of_and_eq h (by decide)]
    exact (BitVec.extractLsb'_append_eq_of_le (by decide)).trans BitVec.extractLsb'_eq_self
  rw [decodeSetup, if_pos ht, hb]

/-- A row of a type: the key under the mask of the type tells it. -/
theorem type_of_key_row {p : SetupPacket} {c : Half} (h : p.key &&& 0x0060 = c) : p.type = c.extractLsb' 5 2 := by
  rw [← p.key_type, extractLsb'_of_and_eq h (by decide)]

/-- Settles O4: each row names the code and the type, or the type alone, and these select the instruction. -/
theorem setupRows : Obligations.SetupRows := by
  intro p
  refine ⟨decodeSetup_row 0, decodeSetup_row 1, decodeSetup_row 3, decodeSetup_row 5, decodeSetup_row 6,
    decodeSetup_row 7, decodeSetup_row 8, decodeSetup_row 9, decodeSetup_row 10, decodeSetup_row 11,
    decodeSetup_row 12, fun h hb => ?_, fun h => ?_, fun h => ?_, fun h => ?_⟩
  · have ht : p.type = 0 := type_of_key_row h
    rw [decodeSetup, if_pos ht, decodeStd_undefined hb]
  all_goals
    have ht := type_of_key_row h
    simp only [decodeSetup, ht]
    rfl

/-! ### Events (R100) -/

/-- The lowest four bits as a mask and as a field. -/
theorem extractLsb'_low_ne_zero {w : Half} (h : w &&& 0x000F ≠ 0) : w.extractLsb' 0 4 ≠ 0 := by
  intro h0
  have hlow : w &&& 0x000F = (w.extractLsb' 0 4).setWidth 16 := by
    have hm : ∀ i, i < 16 → (0x000F : Half).getLsbD i = decide (i < 4) := by decide
    apply BitVec.eq_of_getLsbD_eq
    intro i hi
    rw [BitVec.getLsbD_and, hm i hi, BitVec.getLsbD_setWidth, BitVec.getLsbD_extractLsb', Nat.zero_add, Bool.and_comm,
      decide_eq_true hi, Bool.true_and]
  rw [hlow, h0] at h
  exact h rfl

/-- Settles O5: a row's mask tells the bits that the decoder tests up to the row. -/
theorem istrRows : Obligations.IstrRows := by
  intro w
  refine ⟨fun h => ?_, fun h => ?_, fun h hn => ?_, fun h hn => ?_, fun h => ?_, fun h => ?_, fun h => ?_, fun h => ?_,
    fun h => ?_⟩
  · have hid : w.extractLsb' 0 4 = 0 := extractLsb'_of_and_eq h (by decide)
    rw [decodeIstr, if_pos (getLsbD_of_and_eq h 15 true), if_pos hid, if_pos (getLsbD_of_and_eq h 4 true)]
  · have hid : w.extractLsb' 0 4 = 0 := extractLsb'_of_and_eq h (by decide)
    simp only [decodeIstr, getLsbD_of_and_eq h 15 true, hid, getLsbD_of_and_eq h 4 false]
    rfl
  · have hid := extractLsb'_low_ne_zero hn
    rw [decodeIstr, if_pos (getLsbD_of_and_eq h 15 true), if_neg hid, if_pos (getLsbD_of_and_eq h 4 true)]
  · have hid := extractLsb'_low_ne_zero hn
    simp only [decodeIstr, getLsbD_of_and_eq h 15 true, if_neg hid, getLsbD_of_and_eq h 4 false]
    rfl
  · simp only [decodeIstr, getLsbD_of_and_eq h 15 false, getLsbD_of_and_eq h 10 true]
    rfl
  · simp only [decodeIstr, getLsbD_of_and_eq h 15 false, getLsbD_of_and_eq h 10 false, getLsbD_of_and_eq h 12 true]
    rfl
  · simp only [decodeIstr, getLsbD_of_and_eq h 15 false, getLsbD_of_and_eq h 10 false, getLsbD_of_and_eq h 12 false,
      getLsbD_of_and_eq h 11 true]
    rfl
  · simp only [decodeIstr, getLsbD_of_and_eq h 15 false, getLsbD_of_and_eq h 10 false, getLsbD_of_and_eq h 12 false,
      getLsbD_of_and_eq h 11 false, getLsbD_of_and_eq h 9 true]
    rfl
  · simp only [decodeIstr, getLsbD_of_and_eq h 15 false, getLsbD_of_and_eq h 10 false, getLsbD_of_and_eq h 12 false,
      getLsbD_of_and_eq h 11 false, getLsbD_of_and_eq h 9 false]
    rfl

/-- Settles O7. -/
theorem decodedWords : Obligations.DecodedWords := ⟨rfl, rfl, rfl, rfl, rfl⟩

end Sys2Proof

namespace Sys2Proof.Machine

/-! ### What a step fetches (R70, R90, R106) -/

section fetch

variable {s : State} (hf : s.fatal = none)

include hf

theorem fetch_dispatch (hd : s.inDispatch = true) {p : SetupPacket} (hp : s.setup = some p) :
    fetch s = .input (.setup8 p.bytes) s := by
  simp only [fetch, hf, hd, hp, if_true]

variable (hd : s.inDispatch = false)

include hd

theorem fetch_stage (hg : s.stageDue = true) : fetch s = .input (.stage3 s.ctx.stage) s := by
  simp [fetch, hf, hd, hg]

variable (hg : s.stageDue = false)

include hg

theorem fetch_event (hi : s.inIsr = true) : fetch s = .input (.istr16 s.isrPending) s := by
  simp [fetch, hf, hd, hg, hi]

variable (hi : s.inIsr = false)

include hi

theorem fetch_line {it : Item} {q : List Item} (ht : s.trace = it :: q) :
    fetch s = fetchItem it { s with trace := q } := by
  simp [fetch, hf, hd, hg, hi, ht]

theorem fetch_end (ht : s.trace = []) : fetch s = fetchNone s := by
  simp [fetch, hf, hd, hg, hi, ht]

end fetch

theorem step_own {s : State} {o : Host.Outcome State Fault Refusal} (h : fetch s = .own o) : step s = o := by
  rw [step, h]

theorem step_input {s t : State} {e : Enc} {i : Instr} (h : fetch s = .input e t) (hd : decode e = .ok i) :
    step s = exec i t := by
  simp only [step, h, hd]

theorem step_undecodable {s t : State} {e : Enc} {d : DecodeError} (h : fetch s = .input e t)
    (hd : decode e = .error d) : step s = undecodable d t := by
  simp only [step, h, hd]

/-- Settles O9: each input is what `fetch` finds, and a step decodes and runs it. -/
theorem stepRunsDecoded : Obligations.StepRunsDecoded := by
  intro s i _ hf
  refine ⟨fun p hd hp => step_input (fetch_dispatch hf hd hp), fun hd hg => step_input (fetch_stage hf hd hg),
    fun hd hg hi => step_input (fetch_event hf hd hg hi), fun bs q hd hg hi ht => ?_, fun bs q hd hg hi ht => ?_,
    fun e q hd hg hi ht => ?_⟩
  all_goals exact step_input (fetch_line hf hd hg hi ht)

/-- Settles O10: the latch is looked at before anything is fetched. -/
theorem stepHalted : Obligations.StepHalted := by
  intro s c h
  exact step_own (by simp only [fetch, h])

/-- Settles O6: the table has no row above 4, and a step faults where it finds none. -/
theorem stageRows : Obligations.StageRows := by
  refine ⟨rfl, rfl, rfl, rfl, rfl, fun s hf hd hg hs => ?_⟩
  have hnone : ∀ w : BitVec 3, 4 < w.toNat → decodeStage w = none := by decide
  refine ⟨hnone _ hs, step_undecodable (d := .badStage) (fetch_stage hf hd hg) ?_⟩
  simp only [decode, hnone _ hs]

/-- Settles O8: an unassigned id takes no arguments, and a step that fetches it is refused by it. -/
theorem unassignedCalls : Obligations.UnassignedCalls := by
  intro id as hid
  have hargs : ∀ id : Byte, id = 0 ∨ (0x0D ≤ id.toNat ∧ id.toNat ≤ 0x0F) ∨ (0x1D ≤ id.toNat ∧ id.toNat ≤ 0x1F)
      ∨ 0x21 ≤ id.toNat → callArgBytes id.toNat = none := by decide
  have hdec : decode (.call8 (id :: as)) = .error (.unassignedCall id) := by
    simp only [decode, decodeCall, hargs id hid]
  exact ⟨hdec, fun s q hf hd hg hi ht => step_undecodable (fetch_line hf hd hg hi ht) hdec⟩

end Sys2Proof.Machine

/-! Reset, invariants and the device state (spec/10_state.md, spec/70_reset_and_hazards.md): relations that every step keeps,
whatever the SIE and the driver do inside it. -/

namespace Sys2Proof.Machine

/-! ### Reset (R360, R361) -/

/-- Settles O13: the reset state is a literal. -/
theorem resetValues : Obligations.ResetValues := by
  unfold Obligations.ResetValues
  decide

/-- Settles O14. -/
theorem resetInv : Obligations.ResetInv := by
  unfold Obligations.ResetInv Inv
  decide

/-! ### The bus events (R297 to R300) -/

/-- Settles O60. -/
theorem sieBusEvents : Obligations.SieBusEvents := fun _ _ => ⟨rfl, rfl, rfl, rfl⟩

/-! ### The invariant -/

/-- The step from `s` to `t` keeps the invariant. -/
def InvStep (s t : State) : Prop := Inv s → Inv t

theorem InvStep.of_eq {s t : State} (hp : t.pma = s.pma) (hc : t.cpu = s.cpu) (hi : t.istr = s.istr)
    (hb : t.btable = s.btable) : InvStep s t := by
  unfold InvStep Inv
  rw [hp, hc, hi, hb]
  exact id

/-- Flags set in `ISTR` stay within its flags (R40). -/
theorem or_istrFlags {a b : Half} (ha : a &&& ~~~ istrFlagMask = 0) (hb : b &&& ~~~ istrFlagMask = 0) :
    (a ||| b) &&& ~~~ istrFlagMask = 0 := by
  rw [BitVec.and_comm, BitVec.and_or_distrib_left, BitVec.and_comm, ha, BitVec.and_comm, hb, BitVec.or_self]

theorem istrWrite_flags (a w : Half) : istrWrite a w &&& ~~~ istrFlagMask = 0 := by
  rw [istrWrite, BitVec.and_assoc, BitVec.and_not_self]
  exact BitVec.and_zero

theorem btableWrite_low (w : Half) : btableWrite w &&& 0x0007 = 0 := by
  rw [btableWrite, BitVec.and_assoc]
  exact BitVec.and_zero

theorem invStep_writeReg (s : State) (r : Reg) (w : Half) : InvStep s (s.writeReg r w) := by
  rintro ⟨hp, hc, hi, hb⟩
  cases r with
  | epr n => exact ⟨hp, hc, hi, hb⟩
  | istr => exact ⟨hp, hc, istrWrite_flags _ _, hb⟩
  | cntr => exact ⟨hp, hc, hi, hb⟩
  | daddr => exact ⟨hp, hc, hi, hb⟩
  | btable => exact ⟨hp, hc, hi, btableWrite_low _⟩

theorem invStep_sieClosed : SieClosed InvStep where
  refl _ := id
  trans h k := k ∘ h
  bus _ _ := id
  draws _ _ := id
  pmaBytes _ _ _ hs := ⟨Memory.wf_writeBytes _ hs.1 _, hs.2⟩
  pmaWord _ _ _ hs := ⟨Memory.wf_writeWord hs.1 _ _, hs.2⟩
  epr _ _ _ := id
  istrSet _ _ hb hs := ⟨hs.1, hs.2.1, or_istrFlags hs.2.2.1 hb, hs.2.2.2⟩

theorem invStep_busReset : ResetClosed InvStep :=
  fun _ hs => ⟨hs.1, hs.2.1, or_istrFlags hs.2.2.1 (by decide), hs.2.2.2⟩

theorem invStep_closed : Closed InvStep where
  toSieClosed := invStep_sieClosed
  tick := invStep_sieClosed.tick (fun _ _ => id) invStep_busReset
  cpu _ _ _ hs := ⟨hs.1, Memory.wf_write hs.2.1 _ _, hs.2.2⟩
  fatal _ _ := id
  latch _ _ _ _ := id
  ctx _ _ := id
  pending _ _ _ := id
  ept _ _ _ := id
  ret _ _ := id
  stalls _ _ := id
  calls _ _ _ := id
  due _ _ _ := id
  isr _ _ _ := id

theorem invStep_extra (i : Instr) : Extra InvStep i := by
  cases i with
  | evReset => exact ⟨fun _ _ => id, fun _ => id⟩
  | stageStatusIn => exact ⟨fun _ _ => id, fun _ _ => id⟩
  | setConfiguration r => exact fun _ => id
  | evSusp => exact fun _ _ => id
  | evWkup => exact fun _ _ => id
  | coreInit d =>
    exact ⟨fun _ _ => id, fun s w => invStep_writeReg s .cntr w, fun s w => invStep_writeReg s .istr w,
      fun s w => invStep_writeReg s .btable w, fun _ => id⟩
  | hostBusReset => exact invStep_busReset
  | _ => trivial

theorem invStep_closedStep : ClosedStep InvStep where
  toClosed := invStep_closed
  extra := invStep_extra
  window _ _ := id
  own _ _ _ _ := id
  busData _ _ := id
  seen _ _ := id
  reg := invStep_writeReg

/-- Settles O15: keeping the invariant holds across every elementary update. -/
theorem invKept : Obligations.InvKept := fun _ _ hs e => invStep_closedStep.step e hs

/-! ### The device state (R25, R26) -/

/-- A relation of the device state and its saved copy. -/
abbrev DevRel (P : DevState × DevState → DevState × DevState → Prop) (s t : State) : Prop :=
  P (s.dev.state, s.dev.previous) (t.dev.state, t.dev.previous)

/-- Nothing that instructions have in common touches the device state. -/
theorem devRel_closed {P : DevState × DevState → DevState × DevState → Prop} (refl : ∀ d, P d d)
    (trans : ∀ {d e f}, P d e → P e f → P d f) : Closed (DevRel P) := by
  have hsie : SieClosed (DevRel P) :=
    { refl := fun _ => refl _, trans := trans, bus := fun _ _ => refl _, draws := fun _ _ => refl _,
      pmaBytes := fun _ _ _ => refl _, pmaWord := fun _ _ _ => refl _, epr := fun _ _ _ => refl _,
      istrSet := fun _ _ _ => refl _ }
  exact
    { hsie with
      tick := hsie.tick (fun _ _ => refl _) fun _ => refl _, cpu := fun _ _ _ => refl _, fatal := fun _ _ => refl _,
      latch := fun _ _ _ _ => refl _, ctx := fun _ _ => refl _, pending := fun _ _ _ => refl _,
      ept := fun _ _ _ => refl _, ret := fun _ _ => refl _, stalls := fun _ _ => refl _, calls := fun _ _ _ => refl _,
      due := fun _ _ _ => refl _, isr := fun _ _ _ => refl _ }

/-- The device state and its saved copy stand. -/
theorem devSame_closed : Closed (DevRel Eq) := devRel_closed Eq.refl Eq.trans

/-- The Status-In stage moves between Default and Addressed (R225). -/
def AddressArc (d e : DevState × DevState) : Prop :=
  e.1 = d.1 ∨ (d.1 = .default ∧ e.1 = .addressed) ∨ (d.1 = .addressed ∧ e.1 = .default)

theorem addressArc_closed : Closed (DevRel AddressArc) :=
  devRel_closed (fun _ => .inl rfl) (by unfold AddressArc; grind)

theorem addressArc_addressedState (a : BitVec 7) (d e : DevState) : AddressArc (d, e) (addressedState a d, e) := by
  unfold AddressArc addressedState
  grind

/-- SET_CONFIGURATION moves to one state, whatever it starts from (R263). -/
def TargetArc (c : DevState) (d e : DevState × DevState) : Prop := e.1 = d.1 ∨ e.1 = c

theorem targetArc_closed (c : DevState) : Closed (DevRel (TargetArc c)) :=
  devRel_closed (fun _ => .inl rfl) (by unfold TargetArc; grind)

/-- Suspend saves the state that it leaves (R335). -/
def SuspendArc (d e : DevState × DevState) : Prop := e = d ∨ (d.1 ≠ .suspended ∧ e = (.suspended, d.1))

theorem suspendArc_closed : Closed (DevRel SuspendArc) :=
  devRel_closed (fun _ => .inl rfl) (by unfold SuspendArc; grind)

/-- Wakeup restores the saved state (R336). -/
def WakeupArc (d e : DevState × DevState) : Prop := e = d ∨ (d.1 = .suspended ∧ e = (d.2, d.2))

theorem wakeupArc_closed : Closed (DevRel WakeupArc) :=
  devRel_closed (fun _ => .inl rfl) (by unfold WakeupArc; grind)

/-- The bus-reset handler and `core_init` set both copies to Default (R334, R362). -/
def ResetArc (d e : DevState × DevState) : Prop := e = d ∨ e = (.default, .default)

theorem resetArc_closed : Closed (DevRel ResetArc) :=
  devRel_closed (fun _ => .inl rfl) (by unfold ResetArc; grind)

/-- A request whose slot is null is stalled: its handler's part in what the dispatch keeps falls away (R253). -/
theorem Closed.dispatch_of_not_legal {R : State → State → Prop} (h : Closed R) {s t : State} {q : Point}
    (hq : s.cfg.legalPoint s.dev.state q = false) {p : SetupPacket} {m : M Unit}
    (e : outcome (Machine.dispatch p (some q) m) s = .next t) : R s t := by
  have hrun : ∀ k : M Unit, Machine.runPoint (some q) k (s.latched p) = Machine.stallResponse sNotLegal (s.latched p) := by
    intro k
    refine (bind_ok (getS_apply _)).trans ?_
    rw [if_neg (by simp [State.latched, hq])]
  have hdispatch : ∀ k : M Unit, Machine.dispatch p (some q) k s
      = (Machine.stallResponse sNotLegal >>= fun _ => upd fun s => { s with setup := none, inDispatch := false })
          (s.latched p) := by
    intro k
    refine (bind_ok (upd_apply _ s)).trans ?_
    rw [bind_apply, bind_apply, ← hrun k]
    rfl
  have hsame : outcome (Machine.dispatch p (some q) (Pure.pure ())) s = .next t := by
    rw [← e, outcome, outcome, hdispatch m, hdispatch]
  exact keeps_outcome (h.dispatch p (some q) (h.pure ())) hsame

/-- Settles O17: each of the six instructions that write the device state keeps an arc of its own, and every other one keeps
the state. -/
theorem devStateArcs : Obligations.DevStateArcs := by
  intro i s t e
  cases i with
  | stageStatusIn =>
    have h := addressArc_closed.exec .stageStatusIn ⟨fun s _ => addressArc_closed.refl s,
      fun s a => addressArc_addressedState a s.dev.state s.dev.previous⟩ e
    obtain h | h | h := h
    · exact .inl h
    · exact .inr (.inl ⟨rfl, h⟩)
    · exact .inr (.inr (.inl ⟨rfl, h⟩))
  | setConfiguration r =>
    cases hq : s.cfg.legalPoint s.dev.state .setConfiguration with
    | true =>
      obtain h | h := (targetArc_closed _).exec (.setConfiguration r) (fun _ => .inr rfl) e
      · exact .inl h
      · exact .inr (.inr (.inr (.inl ⟨r, rfl, rfl, h⟩)))
    | false =>
      exact .inl (congrArg Prod.fst (devSame_closed.dispatch_of_not_legal hq e).symm)
  | evSusp =>
    obtain h | ⟨-, h⟩ := suspendArc_closed.exec .evSusp (fun _ hs => .inr ⟨hs, rfl⟩) e
    · exact .inl (congrArg Prod.fst h)
    · obtain ⟨h1, h2⟩ := Prod.mk.inj h
      exact .inr (.inr (.inr (.inr (.inl ⟨rfl, h1, h2⟩))))
  | evWkup =>
    obtain h | ⟨hs, h⟩ := wakeupArc_closed.exec .evWkup (fun _ hs => .inr ⟨hs, rfl⟩) e
    · exact .inl (congrArg Prod.fst h)
    · exact .inr (.inr (.inr (.inr (.inr (.inl ⟨rfl, hs, congrArg Prod.fst h⟩)))))
  | evReset =>
    obtain h | h := resetArc_closed.exec .evReset ⟨fun s _ => resetArc_closed.refl s, fun _ => .inr rfl⟩ e
    · exact .inl (congrArg Prod.fst h)
    · obtain ⟨h1, h2⟩ := Prod.mk.inj h
      exact .inr (.inr (.inr (.inr (.inr (.inr (.inl ⟨rfl, h1, h2⟩))))))
  | coreInit d =>
    have hr := resetArc_closed.refl
    obtain h | h := resetArc_closed.exec (.coreInit d)
      ⟨fun s _ => hr s, fun s _ => hr s, fun s _ => hr s, fun s _ => hr s, fun _ => .inr rfl⟩ e
    · exact .inl (congrArg Prod.fst h)
    · obtain ⟨h1, h2⟩ := Prod.mk.inj h
      exact .inr (.inr (.inr (.inr (.inr (.inr (.inr ⟨d, rfl, h1, h2⟩))))))
  | hostBusReset =>
    have h : DevRel Eq s t := devSame_closed.exec .hostBusReset (fun _ => rfl) e
    exact .inl (congrArg Prod.fst h).symm
  | _ =>
    refine .inl (congrArg Prod.fst (devSame_closed.exec _ ?_ e)).symm
    trivial

end Sys2Proof.Machine

/-! Who writes `DADDR`, the parameters, the driver, `CNTR` and `BTABLE` (R33, R42 to R44, R363, R368), whatever the SIE and the
driver do inside a step. -/

namespace Sys2Proof.Machine

/-! ### `DADDR` (R43, R297, R368) -/

/-- No window is added, and `DADDR` stands unless a bus reset stands in the windows and has zeroed it. -/
def DaddrArc (s t : State) : Prop :=
  (∀ ts ∈ t.window, ts ∈ s.window) ∧ (t.daddr = s.daddr ∨ (t.daddr = 0 ∧ ∃ ts ∈ s.window, Token.busReset ∈ ts))

theorem DaddrArc.of_eq {s t : State} (hw : t.window = s.window) (hd : t.daddr = s.daddr) : DaddrArc s t :=
  ⟨fun _ h => hw ▸ h, .inl hd⟩

theorem DaddrArc.trans {s t u : State} (h : DaddrArc s t) (k : DaddrArc t u) : DaddrArc s u := by
  obtain ⟨hw, hd⟩ := h
  obtain ⟨kw, kd⟩ := k
  refine ⟨fun ts hts => hw ts (kw ts hts), ?_⟩
  obtain kd | ⟨kd, ts, hts, hr⟩ := kd
  · rw [kd]
    exact hd
  · exact .inr ⟨kd, ts, hw ts hts, hr⟩

/-- What the SIE steps of one window do: they leave the windows to come, and zero `DADDR` only with a bus reset among them. -/
theorem sieSteps_daddr (ts : List Token) :
    Keeps (fun s t => t.window = s.window ∧ (t.daddr = s.daddr ∨ (t.daddr = 0 ∧ Token.busReset ∈ ts))) (sieSteps ts) := by
  have hc : SieClosed (fun s t : State =>
      t.window = s.window ∧ (t.daddr = s.daddr ∨ (t.daddr = 0 ∧ Token.busReset ∈ ts))) :=
    { refl := fun _ => ⟨rfl, .inl rfl⟩, trans := by grind, bus := fun _ _ => ⟨rfl, .inl rfl⟩,
      draws := fun _ _ => ⟨rfl, .inl rfl⟩, pmaBytes := fun _ _ _ => ⟨rfl, .inl rfl⟩, pmaWord := fun _ _ _ => ⟨rfl, .inl rfl⟩,
      epr := fun _ _ _ => ⟨rfl, .inl rfl⟩, istrSet := fun _ _ _ => ⟨rfl, .inl rfl⟩ }
  exact hc.sieSteps ts fun hr _ => ⟨rfl, .inr ⟨rfl, hr⟩⟩

/-- The SIE steps of the next window, and the windows after it left (R70). -/
theorem tick_window {s : State} {ts : List Token} {rest : List (List Token)} (hw : s.window = ts :: rest) :
    tick s = sieSteps ts { s with window := rest } := by
  refine (bind_ok (getS_apply s)).trans ?_
  rw [hw]
  rfl

theorem daddrArc_tick : Keeps DaddrArc tick := by
  intro s
  cases hw : s.window with
  | nil =>
    rw [tick_quiet hw]
    exact .of_eq rfl rfl
  | cons ts rest =>
    have hsteps := sieSteps_daddr ts { s with window := rest }
    have harc : ∀ t : State, t.window = rest ∧ (t.daddr = s.daddr ∨ (t.daddr = 0 ∧ Token.busReset ∈ ts)) → DaddrArc s t := by
      rintro t ⟨ht, hd⟩
      refine ⟨fun us hus => ?_, hd.imp_right fun ⟨h0, hr⟩ => ⟨h0, ts, ?_, hr⟩⟩ <;> rw [hw]
      · exact List.mem_cons_of_mem _ (ht ▸ hus)
      · exact List.mem_cons_self
    rw [tick_window hw]
    revert hsteps
    cases sieSteps ts { s with window := rest } with
    | ok p => exact harc p.2
    | error e =>
      cases e with
      | halt t => exact harc t
      | fault _ => exact id
      | refused _ => exact id

theorem daddrArc_closed : Closed DaddrArc where
  refl _ := .of_eq rfl rfl
  trans := .trans
  bus _ _ := .of_eq rfl rfl
  draws _ _ := .of_eq rfl rfl
  pmaBytes _ _ _ := .of_eq rfl rfl
  pmaWord _ _ _ := .of_eq rfl rfl
  epr _ _ _ := .of_eq rfl rfl
  istrSet _ _ _ := .of_eq rfl rfl
  tick := daddrArc_tick
  cpu _ _ _ := .of_eq rfl rfl
  fatal _ _ := .of_eq rfl rfl
  latch _ _ _ _ := .of_eq rfl rfl
  ctx _ _ := .of_eq rfl rfl
  pending _ _ _ := .of_eq rfl rfl
  ept _ _ _ := .of_eq rfl rfl
  ret _ _ := .of_eq rfl rfl
  stalls _ _ := .of_eq rfl rfl
  calls _ _ _ := .of_eq rfl rfl
  due _ _ _ := .of_eq rfl rfl
  isr _ _ _ := .of_eq rfl rfl

/-- Settles O16: the windows carry the bus resets that can zero `DADDR` inside an instruction. -/
theorem daddrWriters : Obligations.DaddrWriters := by
  intro i s t hr hs e
  have hfrom : DaddrArc s t → t.daddr = s.daddr ∨ (t.daddr = 0 ∧ (i = .hostBusReset ∨ ∃ ts ∈ s.window, .busReset ∈ ts)) :=
    fun h => h.2.imp_right fun ⟨h0, hw⟩ => ⟨h0, .inr hw⟩
  cases i with
  | evReset => exact absurd rfl hr
  | stageStatusIn => exact absurd rfl hs
  | hostBusReset =>
    cases e
    exact .inr ⟨rfl, .inl rfl⟩
  | setConfiguration r => exact hfrom (daddrArc_closed.exec _ (fun _ => .of_eq rfl rfl) e)
  | evSusp => exact hfrom (daddrArc_closed.exec .evSusp (fun _ _ => .of_eq rfl rfl) e)
  | evWkup => exact hfrom (daddrArc_closed.exec .evWkup (fun _ _ => .of_eq rfl rfl) e)
  | coreInit d =>
    exact hfrom (daddrArc_closed.exec (.coreInit d) ⟨fun _ _ => .of_eq rfl rfl, fun _ _ => .of_eq rfl rfl,
      fun _ _ => .of_eq rfl rfl, fun _ _ => .of_eq rfl rfl, fun _ => .of_eq rfl rfl⟩ e)
  | _ =>
    refine hfrom (daddrArc_closed.exec _ ?_ e)
    trivial

/-! ### The parameters, the driver, `CNTR` and `BTABLE` (R33, R42, R44, R363) -/

/-- What no instruction but `core_init` writes: the parameters, the driver, `CNTR` and `BTABLE`. -/
def installed (s : State) : Params × DriverFlags × Half × Half := (s.cfg, s.driver, s.cntr, s.btable)

/-- A value read off the state that stands. -/
abbrev SameField {α : Type} (f : State → α) (s t : State) : Prop := f t = f s

theorem installed_sieClosed {α : Type} (g : Params × DriverFlags × Half × Half → α) :
    SieClosed (SameField (g ∘ installed)) where
  refl _ := rfl
  trans h k := k.trans h
  bus _ _ := rfl
  draws _ _ := rfl
  pmaBytes _ _ _ := rfl
  pmaWord _ _ _ := rfl
  epr _ _ _ := rfl
  istrSet _ _ _ := rfl

theorem installed_closed {α : Type} (g : Params × DriverFlags × Half × Half → α) :
    Closed (SameField (g ∘ installed)) where
  toSieClosed := installed_sieClosed g
  tick := (installed_sieClosed g).tick (fun _ _ => rfl) fun _ => rfl
  cpu _ _ _ := rfl
  fatal _ _ := rfl
  latch _ _ _ _ := rfl
  ctx _ _ := rfl
  pending _ _ _ := rfl
  ept _ _ _ := rfl
  ret _ _ := rfl
  stalls _ _ := rfl
  calls _ _ _ := rfl
  due _ _ _ := rfl
  isr _ _ _ := rfl

theorem installed_extra {α : Type} (g : Params × DriverFlags × Half × Half → α) (i : Instr) (hi : ∀ d, i ≠ .coreInit d) :
    Extra (SameField (g ∘ installed)) i := by
  cases i with
  | evReset => exact ⟨fun _ _ => rfl, fun _ => rfl⟩
  | stageStatusIn => exact ⟨fun _ _ => rfl, fun _ _ => rfl⟩
  | setConfiguration r => exact fun _ => rfl
  | evSusp => exact fun _ _ => rfl
  | evWkup => exact fun _ _ => rfl
  | coreInit d => exact absurd rfl (hi d)
  | hostBusReset => exact fun _ => rfl
  | _ => trivial

/-- No instruction but `core_init` writes any of the four. -/
theorem installed_exec {i : Instr} (hi : ∀ d, i ≠ .coreInit d) {s t : State} (e : exec i s = .next t) :
    installed t = installed s :=
  (installed_closed id).exec i (installed_extra id i hi) e

/-- A register write leaves the parameters and the driver. -/
theorem writeReg_cfg (s : State) (r : Reg) (w : Half) : (s.writeReg r w).cfg = s.cfg := by
  cases r <;> rfl

theorem writeReg_driver (s : State) (r : Reg) (w : Half) : (s.writeReg r w).driver = s.driver := by
  cases r <;> rfl

/-- No step of any agent changes the parameters (R33). -/
theorem cfg_closedStep : ClosedStep (SameField State.cfg) where
  toClosed := installed_closed Prod.fst
  extra i := by
    cases i with
    | coreInit d => exact ⟨fun _ _ => rfl, fun _ _ => rfl, fun _ _ => rfl, fun _ _ => rfl, fun _ => rfl⟩
    | _ =>
      refine installed_extra Prod.fst _ ?_
      simp
  window _ _ := rfl
  own _ _ _ _ := rfl
  busData _ _ := rfl
  seen _ _ := rfl
  reg := writeReg_cfg

/-! ### The driver across the steps that run no instruction -/

section driver

/-- The driver stands across every operation that instructions share. -/
theorem driver_closed : Closed (SameField State.driver) := installed_closed fun x => x.2.1

theorem driver_isrEnter : Keeps (SameField State.driver) isrEnter :=
  driver_closed.after (fun _ => rfl) <| driver_closed.bind (driver_closed.regRead _) fun _ => keeps_upd fun _ => rfl

theorem driver_isrReturn : Keeps (SameField State.driver) isrReturn :=
  driver_closed.read fun _ => driver_closed.bind (driver_closed.regWrite _ _ fun s => writeReg_driver s _ _) fun _ =>
    keeps_upd fun _ => rfl

theorem driver_foregroundWrite (a v : Addr) : Keeps (SameField State.driver) (foregroundWrite a v) := by
  refine driver_closed.bind driver_closed.requireWriter fun _ => driver_closed.read fun s => ?_
  split
  · exact driver_closed.regWrite _ _ fun s => writeReg_driver s _ _
  · exact keeps_refuse _

theorem driver_foregroundRead (a : Addr) : Keeps (SameField State.driver) (foregroundRead a) := by
  refine driver_closed.read fun s => ?_
  split
  · exact driver_closed.bind (driver_closed.regRead _) fun _ => keeps_upd fun _ => rfl
  · exact keeps_refuse _

theorem driver_foregroundGet (x : Shared) : Keeps (SameField State.driver) (foregroundGet x) := by
  refine driver_closed.bind (driver_closed.read fun s => ?_) fun _ => keeps_upd fun _ => rfl
  cases x with
  | pmaWord k => exact driver_closed.bind (driver_closed.pmaRead16 k) fun _ => driver_closed.pure _
  | cpuByte a => exact driver_closed.bind (driver_closed.memRead a) fun _ => driver_closed.pure _
  | setup => exact driver_closed.bind driver_closed.readSetup fun _ => driver_closed.pure _
  | _ => exact driver_closed.pure _

theorem driver_foregroundStore (a : Addr) (v : Byte) : Keeps (SameField State.driver) (foregroundStore a v) := by
  refine driver_closed.bind (driver_closed.read fun s => ?_) fun _ => driver_closed.memWrite _ _
  split
  · exact driver_closed.requireWriter
  · exact driver_closed.pure _

theorem driver_own {m : M Unit} (hm : Keeps (SameField State.driver) m) {s u : State} (hu : u.driver = s.driver) :
    Leads (SameField State.driver) s (.own (outcome m u)) := by
  cases e : outcome m u with
  | next t => exact (keeps_outcome hm e).trans hu
  | fault _ => trivial
  | refused _ => trivial

theorem driver_fetchNone (s : State) : Leads (SameField State.driver) s (fetchNone s) := by
  unfold fetchNone
  split
  · exact driver_own driver_isrEnter rfl
  · exact rfl

theorem driver_fetchItem (it : Item) {s u : State} (hu : u.driver = s.driver) :
    Leads (SameField State.driver) s (fetchItem it u) := by
  cases it with
  | isr =>
    unfold fetchItem
    dsimp only
    split
    · exact driver_own driver_isrEnter hu
    · trivial
  | busWrite a v => exact driver_own (driver_foregroundWrite a v) hu
  | busRead a => exact driver_own (driver_foregroundRead a) hu
  | read x => exact driver_own (driver_foregroundGet x) hu
  | store a v => exact driver_own (driver_foregroundStore a v) hu
  | _ => exact hu

/-- What a step is about: its input starts with the driver as it is, and a step that runs no instruction leaves it so. -/
theorem driver_fetch (s : State) : Leads (SameField State.driver) s (fetch s) := by
  unfold fetch
  split
  · trivial
  split
  · split
    · exact rfl
    · trivial
  split
  · exact rfl
  split
  · exact rfl
  split
  · exact driver_fetchItem _ rfl
  · exact driver_fetchNone s

end driver

/-- Only a record of the command port decodes to `core_init` (R102). -/
theorem call8_of_decode_coreInit {e : Enc} {d : Option DriverFlags} (h : decode e = .ok (.coreInit d)) :
    ∃ bs, e = .call8 bs := by
  cases e with
  | istr16 w =>
    cases hw : decodeIstr w with
    | none => simp [decode, hw] at h
    | some j =>
      simp only [decode, hw] at h
      cases h
      unfold decodeIstr at hw
      split_ifs at hw <;> cases hw
  | _ => exact ⟨_, ((decodeSound _ _ h).2 (by simp)).symm⟩

/-- Of the lines only a command is a command record. -/
theorem item_of_fetchItem_call8 {it : Item} {t u : State} {bs : List Byte} (h : fetchItem it t = .input (.call8 bs) u) :
    it = .call bs := by
  cases it with
  | call bs' =>
    cases h
    rfl
  | isr =>
    unfold fetchItem at h
    dsimp only at h
    split at h <;> cases h
  | _ => cases h

/-- A command record is fetched from the next line of the trace alone (R106). -/
theorem trace_of_fetch_call8 {s u : State} {bs : List Byte} (h : fetch s = .input (.call8 bs) u) :
    ∃ q, s.trace = .call bs :: q := by
  unfold fetch at h
  split at h
  · cases h
  split at h
  · split at h <;> cases h
  split at h
  · cases h
  split at h
  · cases h
  split at h
  case h_1 it rest ht => exact ⟨rest, item_of_fetchItem_call8 h ▸ ht⟩
  case h_2 =>
    unfold fetchNone at h
    split at h <;> cases h

/-- An input that decodes to nothing leaves the driver. -/
theorem driver_undecodable {d : DecodeError} {u t : State} (e : undecodable d u = .next t) : t.driver = u.driver := by
  cases d with
  | noEvent => exact keeps_outcome driver_isrReturn e
  | noStepPid pid =>
    cases e
    rfl
  | _ => cases e

/-- A step that runs no `core_init` leaves the driver. -/
theorem driver_step {s t : State} (e : step s = .next t)
    (hno : ∀ x u d, fetch s = .input x u → decode x ≠ .ok (.coreInit d)) : t.driver = s.driver := by
  have hf := driver_fetch s
  unfold step at e
  cases hq : fetch s with
  | own o =>
    rw [hq] at hf e
    dsimp only at e
    subst e
    exact hf
  | input x u =>
    rw [hq] at hf e
    dsimp only at e
    refine Eq.trans ?_ hf
    cases hx : decode x with
    | ok i =>
      rw [hx] at e
      exact congrArg (·.2.1) (installed_exec (fun d hi => hno x u d hq (hi ▸ hx)) e)
    | error d =>
      rw [hx] at e
      exact driver_undecodable e

/-- Settles O18: the parameters stand across every elementary update, and only a line that calls `core_init` runs it. -/
theorem configurationConstant : Obligations.ConfigurationConstant := by
  refine ⟨fun s t e => ⟨cfg_closedStep.step e, fun hno => driver_step e fun x u d hq hx => ?_⟩, fun i s t hi e => ?_⟩
  · obtain ⟨bs, rfl⟩ := call8_of_decode_coreInit hx
    obtain ⟨q, ht⟩ := trace_of_fetch_call8 hq
    exact hno bs q d ht hx
  · have h := installed_exec hi e
    simp only [installed, Prod.mk.injEq] at h
    exact h.2

end Sys2Proof.Machine

/-! The interrupt line, a read of `ISTR`, and the two ends of an invocation (R41, R327 to R330, R338). -/

namespace Sys2Proof.Machine

/-! ### Completions pending (R41) -/

theorem anyEp_iff (p : Fin 8 → Bool) : anyEp p = true ↔ ∃ n, p n = true := by
  simp [anyEp, Fin.exists_fin_succ, or_assoc]

theorem pendingEp_iff (s : State) (n : Fin 8) :
    pendingEp s n = true ↔ s.epr[n].getLsbD 15 = true ∨ s.epr[n].getLsbD 7 = true := by
  simp only [pendingEp, ctrOf, Bool.or_eq_true]

theorem mem_listEps (p : Fin 8 → Bool) (n : Fin 8) : n ∈ listEps p ↔ p n = true := by
  have hall : ∀ n : Fin 8, n ∈ ([0, 1, 2, 3, 4, 5, 6, 7] : List (Fin 8)) := by decide
  simp [listEps, hall n]

/-- `EP_ID` names an endpoint with a completion pending (R41, U4). -/
theorem pendingEp_of_reportedEp {s : State} {n : Fin 8} (h : reportedEp s = some n) : pendingEp s n = true := by
  rw [← mem_listEps (pendingEp s) n]
  unfold reportedEp at h
  split at h
  · cases h
  · rename_i m hl
    cases h
    rw [hl]
    exact List.mem_singleton_self _
  · rename_i m ms _ hl
    cases h
    rw [hl, List.getElem?_eq_getElem (Nat.mod_lt _ (List.length_pos_of_ne_nil (by simp))), Option.getD_some]
    exact List.getElem_mem _

theorem reportedEp_isSome_iff (s : State) : (∃ n, reportedEp s = some n) ↔ ∃ n, pendingEp s n = true := by
  refine ⟨fun ⟨n, h⟩ => ⟨n, pendingEp_of_reportedEp h⟩, fun ⟨n, h⟩ => ?_⟩
  rw [← mem_listEps (pendingEp s) n] at h
  unfold reportedEp
  split
  · rename_i hl
    rw [hl] at h
    cases h
  · exact ⟨_, rfl⟩
  · exact ⟨_, rfl⟩

/-! ### A read of `ISTR` (R41) -/

/-- The computed fields while endpoint `n` is reported: `CTR`, `DIR` for a received packet, `EP_ID`. -/
def completionWord (received : Bool) (n : Fin 8) : Half := (if received then 0x8010 else 0x8000) ||| BitVec.ofNat 16 n.val

theorem completionWord_fields (c : Bool) (n : Fin 8) :
    (completionWord c n).getLsbD 15 = true ∧ (completionWord c n).extractLsb' 5 10 = 0
      ∧ (completionWord c n).getLsbD 4 = c ∧ ((completionWord c n).extractLsb' 0 4).toNat = n.val := by
  revert c n
  decide

theorem istrRead_some {s : State} {n : Fin 8} (h : reportedEp s = some n) :
    istrRead s = (s.istr &&& istrFlagMask) ||| completionWord (ctrOf .dirOut s.epr[n]) n := by
  rw [istrRead, h]
  rfl

theorem istrRead_none {s : State} (h : reportedEp s = none) :
    istrRead s = (s.istr &&& istrFlagMask) ||| (Config.freeIstrLow s.draws).setWidth 16 := by
  rw [istrRead, h]

theorem freeIstrLow_fields (x : BitVec 5) :
    (x.setWidth 16 : Half).getLsbD 15 = false ∧ (x.setWidth 16 : Half).extractLsb' 5 10 = 0 := by
  revert x
  decide

/-- The stored flags' places: bits 14 to 7. -/
theorem istrFlagMask_getLsbD : ∀ b, b < 16 → istrFlagMask.getLsbD b = decide (7 ≤ b ∧ b ≤ 14) := by decide

/-- Above the stored flags and below them a read gives what is computed. -/
theorem istrRead_bit {s : State} {low : Half} (h : istrRead s = (s.istr &&& istrFlagMask) ||| low) {b : Nat} (hb : b < 16)
    (hf : ¬ (7 ≤ b ∧ b ≤ 14)) : (istrRead s).getLsbD b = low.getLsbD b := by
  rw [h, BitVec.getLsbD_or, BitVec.getLsbD_and, istrFlagMask_getLsbD b hb, decide_eq_false hf, Bool.and_false,
    Bool.false_or]

/-- Among the stored flags a read gives the flag, where the computed fields have no bit. -/
theorem istrRead_flag {s : State} {low : Half} (h : istrRead s = (s.istr &&& istrFlagMask) ||| low)
    (hl : low.extractLsb' 5 10 = 0) {b : Nat} (hb : 7 ≤ b) (hb' : b ≤ 14) : (istrRead s).getLsbD b = s.istr.getLsbD b := by
  have hlow : low.getLsbD b = false := by
    have := congrArg (·.getLsbD (b - 5)) hl
    simpa [BitVec.getLsbD_extractLsb', show 5 + (b - 5) = b by omega, show b - 5 < 10 by omega] using this
  rw [h, BitVec.getLsbD_or, BitVec.getLsbD_and, istrFlagMask_getLsbD b (by omega), decide_eq_true ⟨hb, hb'⟩, hlow,
    Bool.and_true, Bool.or_false]

/-- Bits 6:5 of a read are 0 (R41). -/
theorem istrRead_reserved {s : State} {low : Half} (h : istrRead s = (s.istr &&& istrFlagMask) ||| low)
    (hl : low.extractLsb' 5 10 = 0) : (istrRead s).extractLsb' 5 2 = 0 := by
  apply BitVec.eq_of_getLsbD_eq
  intro i hi
  have hlow := congrArg (·.getLsbD i) hl
  simp only [BitVec.getLsbD_extractLsb', show i < 10 by omega, decide_true, Bool.true_and] at hlow
  rw [BitVec.getLsbD_extractLsb', istrRead_bit h (by omega) (by omega), hlow]
  simp

/-- The number in a read, while a completion is pending (R41). -/
theorem istrRead_epId {s : State} {low : Half} (h : istrRead s = (s.istr &&& istrFlagMask) ||| low) :
    (istrRead s).extractLsb' 0 4 = low.extractLsb' 0 4 := by
  apply BitVec.eq_of_getLsbD_eq
  intro i hi
  rw [BitVec.getLsbD_extractLsb', BitVec.getLsbD_extractLsb', istrRead_bit h (by omega) (by omega)]

/-- A read of `ISTR`: the stored flags and, where a completion is pending, `CTR` with an endpoint that has one (R41). -/
theorem istrRead_fields (s : State) :
    ((istrRead s).getLsbD 15 = true ↔ ∃ n, pendingEp s n = true)
    ∧ (∀ b, 7 ≤ b → b ≤ 14 → (istrRead s).getLsbD b = s.istr.getLsbD b)
    ∧ (istrRead s).extractLsb' 5 2 = 0
    ∧ ((∃ n, pendingEp s n = true) → ∃ n : Fin 8, pendingEp s n = true ∧ ((istrRead s).extractLsb' 0 4).toNat = n.val
        ∧ (istrRead s).getLsbD 4 = s.epr[n].getLsbD 15) := by
  rw [← reportedEp_isSome_iff]
  cases h : reportedEp s with
  | none =>
    have hr := istrRead_none h
    obtain ⟨h15, hl⟩ := freeIstrLow_fields (Config.freeIstrLow s.draws)
    refine ⟨?_, fun b hb hb' => istrRead_flag hr hl hb hb', istrRead_reserved hr hl, fun ⟨n, hn⟩ => by cases hn⟩
    rw [istrRead_bit hr (by decide) (by decide), h15]
    simp
  | some n =>
    have hr := istrRead_some h
    obtain ⟨h15, hl, h4, hid⟩ := completionWord_fields (ctrOf .dirOut s.epr[n]) n
    refine ⟨?_, fun b hb hb' => istrRead_flag hr hl hb hb', istrRead_reserved hr hl,
      fun _ => ⟨n, pendingEp_of_reportedEp h, ?_, ?_⟩⟩
    · rw [istrRead_bit hr (by decide) (by decide), h15]
      simp
    · rw [istrRead_epId hr, hid]
    · rw [istrRead_bit hr (by decide) (by decide), h4]
      rfl

/-! ### The interrupt line (R327) -/

theorem ne_zero_iff_getLsbD {n : Nat} (x : BitVec n) : x ≠ 0 ↔ ∃ b, b < n ∧ x.getLsbD b = true := by
  refine ⟨fun h => ?_, fun ⟨b, _, hb⟩ h0 => by simp [h0] at hb⟩
  by_contra hno
  push Not at hno
  exact h (BitVec.eq_of_getLsbD_eq fun i hi => by simpa using hno i hi)

theorem irqLine_iff (s : State) :
    irqLine s = true ↔ ((∃ n, pendingEp s n = true) ∧ s.cntr.getLsbD 15 = true)
      ∨ ∃ b, 7 ≤ b ∧ b ≤ 14 ∧ s.istr.getLsbD b = true ∧ s.cntr.getLsbD b = true := by
  have henable : ∀ b, b < 16 → (0xFF80 : Half).getLsbD b = decide (7 ≤ b) := by decide
  have hctr : ∀ b, b < 16 → istrCtr.getLsbD b = decide (b = 15) := by decide
  rw [← anyEp_iff (pendingEp s)]
  show ((((s.istr &&& istrFlagMask) ||| if istrCtrNow s then istrCtr else 0) &&& s.cntr &&& 0xFF80) != 0) = true ↔ _
  rw [bne_iff_ne, ne_zero_iff_getLsbD]
  have hbit : ∀ b, b < 16 → ((((s.istr &&& istrFlagMask) ||| if istrCtrNow s then istrCtr else 0) &&& s.cntr
      &&& (0xFF80 : Half)).getLsbD b = true ↔
      ((b = 15 ∧ istrCtrNow s = true) ∨ (7 ≤ b ∧ b ≤ 14 ∧ s.istr.getLsbD b = true)) ∧ s.cntr.getLsbD b = true) := by
    intro b hb
    simp only [BitVec.getLsbD_and, BitVec.getLsbD_or, henable b hb, istrFlagMask_getLsbD b hb]
    cases hc : istrCtrNow s <;> simp [hctr b hb] <;> grind
  constructor
  · rintro ⟨b, hb, h⟩
    obtain ⟨⟨rfl, hp⟩ | ⟨h7, h14, hi⟩, hc⟩ := (hbit b hb).1 h
    · exact .inl ⟨hp, hc⟩
    · exact .inr ⟨b, h7, h14, hi, hc⟩
  · rintro (⟨hp, hc⟩ | ⟨b, h7, h14, hi, hc⟩)
    · exact ⟨15, by decide, (hbit 15 (by decide)).2 ⟨.inl ⟨rfl, hp⟩, hc⟩⟩
    · exact ⟨b, by omega, (hbit b (by omega)).2 ⟨.inr ⟨h7, h14, hi⟩, hc⟩⟩

/-! ### Where an invocation starts and ends (R328 to R330, R338) -/

/-- The entry of an invocation with no SIE step inside it (R329). -/
theorem isrEnter_quiet {s : State} (h : Quiet s) :
    outcome isrEnter s
      = .next { s with inIsr := true, isrPending := istrRead s, isrHandled := 0, draws := s.draws + 1 } :=
  outcome_ok ((bind_ok (upd_apply _ s)).trans (bind_ok (regRead_istr_quiet (s := { s with inIsr := true }) h)))

/-- The return from an invocation with no SIE step inside it: one write-back of the serviced flags (R330, R338). -/
theorem isrReturn_quiet {s : State} (h : Quiet s) :
    outcome isrReturn s = .next { s with istr := istrWrite s.istr (~~~ s.isrHandled), inIsr := false } :=
  outcome_ok ((bind_ok (getS_apply s)).trans (bind_ok (regWrite_quiet h .istr _)))

/-- An `ISR` line starts a due invocation (R328). -/
theorem fetchItem_isr_due {t : State} (h : entryDue t = true) : fetchItem .isr t = .own (outcome isrEnter t) := if_pos h

/-- An `ISR` line is refused where no invocation is due (R328, log 17). -/
theorem fetchItem_isr_not_due {t : State} (h : ¬ entryDue t = true) : fetchItem .isr t = .own (.refused .isrNotDue) :=
  if_neg h

/-- Settles O11: the line and the read bit by bit, and the two places where an invocation may start. -/
theorem isrEntry : Obligations.IsrEntry := by
  intro s
  simp only [← pendingEp_iff]
  obtain ⟨h15, hflags, hres, hid⟩ := istrRead_fields s
  refine ⟨irqLine_iff s, h15, hflags, hres, hid, fun hf hd hg hi hq => ⟨fun hl hm => ?_, fun hno => ?_⟩⟩
  · have hdue : ∀ t : State, irqLine t = irqLine s → t.inIsr = s.inIsr → t.irqMasked = s.irqMasked → t.fatal = s.fatal →
        entryDue t = true := by
      intro t h1 h2 h3 h4
      simp [entryDue, h1, h2, h3, h4, hl, hi, hm, hf]
    refine ⟨fun ht => ?_, fun q ht => ?_⟩
    · refine step_own ((fetch_end hf hd hg hi ht).trans ?_)
      rw [fetchNone, if_pos (hdue s rfl rfl rfl rfl), isrEnter_quiet hq]
    · refine step_own ((fetch_line hf hd hg hi ht).trans ?_)
      exact (fetchItem_isr_due (hdue { s with trace := q } rfl rfl rfl rfl)).trans
        (congrArg Fetched.own (isrEnter_quiet hq))
  · have hdue : ∀ t : State, irqLine t = irqLine s → t.irqMasked = s.irqMasked → ¬ entryDue t = true := by
      intro t h1 h2
      obtain h | h := hno <;> simp [entryDue, h1, h2, h]
    refine ⟨fun ht => ?_, fun q ht => ?_⟩
    · refine step_own ((fetch_end hf hd hg hi ht).trans ?_)
      rw [fetchNone, if_neg (hdue s rfl rfl)]
    · exact step_own ((fetch_line hf hd hg hi ht).trans (fetchItem_isr_not_due (hdue { s with trace := q } rfl rfl)))

/-- Settles O12: a snapshot with no tested condition decodes to nothing, and the step is the return. -/
theorem Invocation.isrReturn : Obligations.IsrReturn := by
  intro s hf hd hg hi hq hp
  have hnone : decodeIstr s.isrPending = none := (istrRows s.isrPending).2.2.2.2.2.2.2.2 hp
  have hdec : decode (.istr16 s.isrPending) = .error .noEvent := by
    simp only [decode, hnone]
  rw [step_undecodable (fetch_event hf hd hg hi) hdec]
  exact isrReturn_quiet hq

end Sys2Proof.Machine

/-! The endpoint-register commands (spec/41_ep_register.md): the three-term formula bit by bit (R154), the window of a
read-modify-write (R151), and what each command leaves with no SIE step inside it. -/

namespace Sys2Proof.Machine

/-! ### The three-term formula (R153, R154) -/

/-- A value within a mask has no bit where the mask has none. -/
theorem getLsbD_eq_false_of_within {x m : Half} (h : x &&& ~~~ m = 0) {b : Nat} (hb : b < 16) (hm : m.getLsbD b = false) :
    x.getLsbD b = false := by
  have hbit : (x &&& ~~~ m).getLsbD b = false := by rw [h]; exact BitVec.getLsbD_zero
  simpa only [BitVec.getLsbD_and, BitVec.getLsbD_not, hb, hm, decide_true, Bool.not_false, Bool.and_true] using hbit

/-- R154: the register after the formula, bit by bit, where the touched fields `f` lie in the toggle mask. -/
theorem eprWrite_rmwWord_getLsbD (r snap f d v c : Half) (hf : f &&& ~~~ toggleMask = 0) {b : Nat} (hb : b < 16) :
    (eprWrite r (rmwWord snap f d v c)).getLsbD b =
      if plainMask.getLsbD b then v.getLsbD b
      else if toggleMask.getLsbD b then
        (if f.getLsbD b then r.getLsbD b ^^ snap.getLsbD b ^^ d.getLsbD b else r.getLsbD b)
      else if ctrMask.getLsbD b then !c.getLsbD b && r.getLsbD b
      else r.getLsbD b := by
  have hf' : toggleMask.getLsbD b = false → f.getLsbD b = false := getLsbD_eq_false_of_within hf hb
  rw [eprWrite_getLsbD _ _ hb]
  simp only [rmwWord, BitVec.getLsbD_or, BitVec.getLsbD_and, BitVec.getLsbD_xor, BitVec.getLsbD_not, hb, decide_true,
    Bool.true_and]
  obtain ⟨hp, ht, hk, -⟩ | ⟨hp, ht, hk, -⟩ | ⟨hp, ht, hk, -⟩ | ⟨hp, ht, hk, -⟩ := category_masks_partition b hb
  · rw [hp, ht, hk, hf' ht]
    cases snap.getLsbD b <;> cases v.getLsbD b <;> cases d.getLsbD b <;> rfl
  · rw [hp, ht, hk]
    cases snap.getLsbD b <;> cases f.getLsbD b <;> cases d.getLsbD b <;> cases r.getLsbD b <;> simp
  · rw [hp, ht, hk, hf' ht]
    cases c.getLsbD b <;> cases r.getLsbD b <;> simp
  · rw [hp, ht, hk]
    rfl

/-- Settles O20: each clause is about the bits of one category. -/
theorem formulaEffect : Obligations.FormulaEffect := by
  intro r snap f d v c hf hc b hb
  have hf' : toggleMask.getLsbD b = false → f.getLsbD b = false := getLsbD_eq_false_of_within hf hb
  have hc' : ctrMask.getLsbD b = false → c.getLsbD b = false := getLsbD_eq_false_of_within hc hb
  have hsetup : b = 11 → setupBit.getLsbD b = true := by rintro rfl; decide
  have hsnap : r = snap → (r.getLsbD b ^^ snap.getLsbD b ^^ d.getLsbD b) = d.getLsbD b := by rintro rfl; simp
  dsimp only
  rw [eprWrite_rmwWord_getLsbD r snap f d v c hf hb]
  show (plainMask.getLsbD b = true → _ = v.getLsbD b) ∧ (toggleMask.getLsbD b = true → _) ∧ _ ∧ _ ∧ _
    ∧ (ctrMask.getLsbD b = true → _) ∧ _
  obtain ⟨hp, ht, hk, hs⟩ | ⟨hp, ht, hk, hs⟩ | ⟨hp, ht, hk, hs⟩ | ⟨hp, ht, hk, hs⟩ := category_masks_partition b hb
  · grind
  · grind
  · grind
  · grind

/-! ### The window of a read-modify-write (R151) -/

/-- Settles O21: the read sees the register after the first window, the write acts on it after the second. -/
theorem rmwWindow : Obligations.RmwWindow := by
  intro s t u n word before between rest hw ht hu
  have htw : t.window = between :: rest := by
    have h := sieSteps_window before { s with window := between :: rest }
    rw [ht] at h
    exact h
  have hread : regRead (.epr n) s = .ok (t.epr[n], t) :=
    (bind_ok ((tick_window hw).trans ht)).trans (bind_ok (getS_apply t))
  refine (bind_ok hread).trans ?_
  cases word t.epr[n] with
  | none => rfl
  | some w => exact bind_ok (bind_ok ((tick_window htw).trans hu))

/-! ### The commands (R155 to R167) -/

section command

variable {s : State} {n : Byte}

/-- A command on an endpoint below 8 answers as its body does. -/
theorem command_next {t : State} {k : Fin 8 → M Unit} (hw : Writer s) (hn : n.toNat < 8)
    (hk : k (epOf n hn) s = .ok ((), t)) : outcome (do requireWriter; let e ← epIndex n; k e) s = .next t :=
  (outcome_command hw hn k).trans (outcome_ok hk)

end command

/-- R168: a status field reads back as it was set. -/
theorem statOf_putBits (d : Dir) (r : Half) (st : Stat) : statOf d (putBits r (statMask d) (statAt d st)) = st := by
  have hin : (~~~ statMask .dirIn).extractLsb' 4 2 = 0 := by decide
  have hout : (~~~ statMask .dirOut).extractLsb' 12 2 = 0 := by decide
  rw [putBits, statAt_and_statMask]
  cases d with
  | dirIn =>
    rw [statOf, BitVec.extractLsb'_or, BitVec.extractLsb'_and, hin]
    cases st <;> simp [statAt, Stat.code, Stat.ofCode]
  | dirOut =>
    rw [statOf, BitVec.extractLsb'_or, BitVec.extractLsb'_and, hout]
    cases st <;> simp [statAt, Stat.code, Stat.ofCode]

/-- Settles O23: one read-modify-write of the status field, which then reads back. -/
theorem setStatusResult : Obligations.SetStatusResult := by
  intro s n hn d st hq hw
  exact ⟨command_next hw hn (setStatusAt_quiet hq _ d st), statOf_putBits d _ st⟩

/-- A read-modify-write that clears a stalled direction's stall writes where the direction is stalled (R157). -/
theorem clearStall_quiet {s : State} (hq : Quiet s) (e : Fin 8) (d : Dir) :
    (do let _ ← eprRmw e fun snap =>
          if statOf d snap = .stall then
            some (rmwWord snap (statMask d ||| dtogMask d) (statAt d (clearedStall d)) snap 0)
          else none
        pure () : M Unit) s = .ok ((), s.setEpr e (unstalledDir s.epr[e] d)) := by
  refine (bind_ok (eprRmw_quiet hq e _)).trans ?_
  unfold unstalledDir
  by_cases hd : statOf d s.epr[e] = .stall
  · rw [if_pos hd, if_pos hd]
    simp only [eprWrite_clearStall, pure_apply]
  · rw [if_neg hd, if_neg hd, State.setEpr_self]
    rfl

/-- Settles O24: the registers after a stall set or cleared, with the disabled and the not stalled direction unchanged. -/
theorem stallResults : Obligations.StallResults := by
  intro s n hn d hq hw
  have hset : exec (.epSetStall n d) s = .next (s.setEpr (epOf n hn) (stalledDir s.epr[epOf n hn] d)) :=
    command_next hw hn (setStallAt_quiet hq _ d)
  have hclear : exec (.epClearStall n d) s = .next (s.setEpr (epOf n hn) (unstalledDir s.epr[epOf n hn] d)) :=
    command_next hw hn (clearStall_quiet hq _ d)
  refine ⟨fun hd => hset.trans ?_, fun hd => hset.trans ?_, fun hd => hclear.trans ?_, fun hd => hclear.trans ?_, ?_⟩
  · rw [stalledDir, if_pos hd, State.setEpr_self]
  · rw [stalledDir, if_neg hd]
  · rw [unstalledDir, if_neg hd, State.setEpr_self]
  · rw [unstalledDir, if_pos hd]
    cases d <;> rfl
  · exact (exec_epGetStall n d s).trans (command_next hw hn (bind_ok (regRead_epr_quiet hq _)))

/-- Settles O25: one read-modify-write each. -/
theorem kindResults : Obligations.KindResults := by
  intro s n hn hq hw
  exact ⟨command_next hw hn (setKindAt_quiet hq _), command_next hw hn (clearKindAt_quiet hq _)⟩

/-- Settles O26: one read-modify-write each, the second with its snapshot returned. -/
theorem clearResults : Obligations.ClearResults := by
  intro s n hn d hq hw
  refine ⟨command_next hw hn (clearConfigurationAt_quiet hq _), ?_⟩
  refine (exec_epClearTransferComplete n d s).trans (command_next hw hn (bind_ok (clearCompleteAt_quiet hq _ d) |>.trans ?_))
  cases d <;> rfl

/-! ### The configurations (R162 to R167) -/

section configure

variable {s : State} (hq : Quiet s) {n : Byte} (hn : n.toNat < 8) {ty : EpType} {x y c : Half}

include hq

/-- `ep_configure` (R162): four descriptor words, then the register. -/
theorem epConfigure_quiet {ws : List (Nat × Half)}
    (hws : ws = bdWords s.cfg (epOf n hn) [(.addrTx, x), (.countTx, 0), (.addrRx, y), (.countRx, encodeRx c)])
    (hf : wordsFree s ws = true) : epConfigure n ty x y c s = .ok ((), (s.putWords ws).setEpr (epOf n hn)
      (configured s.epr[epOf n hn] ty false (epOf n hn) .valid .nak)) := by
  subst hws
  exact (bind_ok (epIndex_ok hn s)).trans ((bdWrite_four hq hf _).trans (configureRegister_after hq ..))

/-- `ep_configure_tx` (R166): the TX pair, then the register. -/
theorem epConfigureTx_quiet {ws : List (Nat × Half)}
    (hws : ws = bdWords s.cfg (epOf n hn) [(.addrTx, x), (.countTx, 0)])
    (hf : wordsFree s ws = true) : epConfigureTx n ty x s = .ok ((), (s.putWords ws).setEpr (epOf n hn)
      (configured s.epr[epOf n hn] ty false (epOf n hn) .disabled .nak)) := by
  subst hws
  exact (bind_ok (epIndex_ok hn s)).trans ((bdWrite_two hq hf _).trans (configureRegister_after hq ..))

/-- `ep_configure_rx` (R167): the RX pair, then the register. -/
theorem epConfigureRx_quiet {ws : List (Nat × Half)}
    (hws : ws = bdWords s.cfg (epOf n hn) [(.addrRx, y), (.countRx, encodeRx c)])
    (hf : wordsFree s ws = true) : epConfigureRx n ty y c s = .ok ((), (s.putWords ws).setEpr (epOf n hn)
      (configured s.epr[epOf n hn] ty false (epOf n hn) .valid .disabled)) := by
  subst hws
  exact (bind_ok (epIndex_ok hn s)).trans ((bdWrite_two hq hf _).trans (configureRegister_after hq ..))

/-- `ep_configure_double_tx` (R163): both pairs with count 0, then the register. -/
theorem epConfigureDoubleTx_quiet {ws : List (Nat × Half)}
    (hws : ws = bdWords s.cfg (epOf n hn) [(.addrTx, x), (.countTx, 0), (.addrRx, y), (.countRx, 0)])
    (hf : wordsFree s ws = true) : epConfigureDoubleTx n ty x y s = .ok ((), (s.putWords ws).setEpr (epOf n hn)
      (configured s.epr[epOf n hn] ty (ty == .bulk) (epOf n hn) .disabled .nak)) := by
  subst hws
  exact (bind_ok (epIndex_ok hn s)).trans ((bdWrite_four hq hf _).trans (configureRegister_after hq ..))

/-- `ep_configure_double_rx` (R164): both pairs with the buffers' size, then the register. -/
theorem epConfigureDoubleRx_quiet {ws : List (Nat × Half)}
    (hws : ws = bdWords s.cfg (epOf n hn)
      [(.addrTx, x), (.countTx, encodeRx c), (.addrRx, y), (.countRx, encodeRx c)])
    (hf : wordsFree s ws = true) : epConfigureDoubleRx n ty x y c s = .ok ((), (s.putWords ws).setEpr (epOf n hn)
      (configured s.epr[epOf n hn] ty (ty == .bulk) (epOf n hn) .valid .disabled)) := by
  subst hws
  exact (bind_ok (epIndex_ok hn s)).trans ((bdWrite_four hq hf _).trans (configureRegister_after hq ..))

end configure

/-- A permitted call runs its operation. -/
theorem outcome_writer_ok {s t : State} {m : M Unit} (hw : Writer s) (h : m s = .ok ((), t)) :
    outcome (do requireWriter; m) s = .next t :=
  outcome_ok ((bind_ok (requireWriter_ok hw)).trans h)

/-- A permitted call faults as its operation does. -/
theorem outcome_writer_fault {s : State} {f : Fault} {m : M Unit} (hw : Writer s) (h : m s = .error (.fault f)) :
    outcome (do requireWriter; m) s = .fault f :=
  outcome_fault ((bind_ok (requireWriter_ok hw)).trans h)

/-- A permitted call halts as its operation does. -/
theorem outcome_writer_halt {s t : State} {m : M Unit} (hw : Writer s) (h : m s = .error (.halt t)) :
    outcome (do requireWriter; m) s = .next t :=
  outcome_halt ((bind_ok (requireWriter_ok hw)).trans h)

/-- Settles O27: the descriptor words in order, then the register. -/
theorem configureSingle : Obligations.ConfigureSingle := by
  intro s n hn ty x r c hq hw e both tx rx
  exact ⟨fun hf => outcome_writer_ok hw (epConfigure_quiet hq hn rfl hf),
    fun hf => outcome_writer_ok hw (epConfigureTx_quiet hq hn rfl hf),
    fun hf => outcome_writer_ok hw (epConfigureRx_quiet hq hn rfl hf)⟩

/-- Settles O28: the descriptor words in order, then the register. -/
theorem configureDouble : Obligations.ConfigureDouble := by
  intro s n hn ty x y c hq hw e tx rx
  exact ⟨fun hf => outcome_writer_ok hw (epConfigureDoubleTx_quiet hq hn rfl hf),
    fun hf => outcome_writer_ok hw (epConfigureDoubleRx_quiet hq hn rfl hf)⟩

/-- Settles O29: each of them looks the endpoint up first. -/
theorem badEpFaults : Obligations.BadEpFaults := by
  intro s n d ty x y c hw hn
  refine ⟨?_, ?_, ?_, ?_, ?_, ?_, ?_⟩ <;> exact outcome_command_badEp hw hn _

end Sys2Proof.Machine

/-! The foreground (spec/60_exceptions.md section 4): its commands need a writer, and what its own lines do (R62, R341). -/

namespace Sys2Proof.Machine

variable {s : State}

/-- R341: a command with the interrupt enabled and not masked is `Fault(FOREGROUND_WRITE)`. -/
theorem outcome_not_writer (hi : s.inIsr = false) (hm : s.irqMasked = false) (m : M Unit) :
    outcome (do requireWriter; m) s = .fault .foregroundWrite :=
  outcome_fault (bind_error (requireWriter_fault hi hm))

theorem command_not_writer {i : Instr} (hc : isCommand i = true) (hi : s.inIsr = false) (hm : s.irqMasked = false) :
    exec i s = .fault .foregroundWrite := by
  cases i with
  | prepareDataIn | prepareDataOut | prepareStatusIn | stallEp0 | pmaRead | pmaWrite | registerEndpoint
  | registerEndpointTx | registerEndpointRx | registerEndpointDoubleTx | registerEndpointDoubleRx | unregisterEndpoint
  | epConfigure | epConfigureTx | epConfigureRx | epConfigureDoubleTx | epConfigureDoubleRx | epClearConfiguration
  | epSetStall | epClearStall | epGetStall | epSetStatus | epSetKind | epClearKind | epClearTransferComplete =>
    exact outcome_not_writer hi hm _
  | _ => exact absurd hc Bool.false_ne_true

/-! ### Accesses at a bus address (R62) -/

/-- The 16 bits that a register read gives (R62). -/
def regValue (s : State) : Reg → Half
  | .epr n => s.epr[n]
  | .istr => istrRead s
  | .cntr => s.cntr
  | .daddr => s.daddr.setWidth 16
  | .btable => s.btable

/-- A register read changes nothing but the number of draws, and that only on `ISTR` (R69). -/
theorem regRead_quiet (hq : Quiet s) (r : Reg) :
    regRead r s = .ok (regValue s r, { s with draws := if r = .istr then s.draws + 1 else s.draws }) := by
  cases r with
  | epr n => exact regRead_epr_quiet hq n
  | istr => exact regRead_istr_quiet hq
  | cntr | daddr | btable => exact bind_ok (tick_quiet hq)

theorem foregroundWrite_masked (hq : Quiet s) (hm : s.irqMasked = true) {a v : Addr} {r : Reg}
    (hr : regAtBus s.cfg a = some r) : foregroundWrite a v s = .ok ((), s.writeReg r (slotWrite v)) := by
  refine (bind_ok (requireWriter_ok (.inr hm))).trans ((bind_ok (getS_apply s)).trans ?_)
  rw [hr]
  exact regWrite_quiet hq r _

theorem foregroundRead_quiet (hq : Quiet s) {a : Addr} {r : Reg} (hr : regAtBus s.cfg a = some r) :
    foregroundRead a s = .ok ((), { s with
      busData := slotRead (regValue s r), draws := if r = .istr then s.draws + 1 else s.draws }) := by
  refine (bind_ok (getS_apply s)).trans ?_
  rw [hr]
  exact bind_ok (regRead_quiet hq r)

/-! ### Reads by name (R341) -/

theorem pmaRead16_bounds (hq : Quiet s) {k : Nat} (hk : s.cfg.pmaBytes < 2 * k + 2) :
    pmaRead16 k s = .error (.fault .pmaBounds) := by
  refine (bind_ok (tick_quiet hq)).trans ((bind_ok (getS_apply s)).trans ?_)
  rw [if_neg (by omega)]
  rfl

theorem memRead_unmapped (hq : Quiet s) {a : Addr} (ha : s.cfg.mapped a = false) :
    memRead a s = .error (.fault .cpuBus) := by
  refine (bind_ok (tick_quiet hq)).trans ((bind_ok (getS_apply s)).trans ?_)
  rw [if_neg (by rw [ha]; exact Bool.false_ne_true)]
  rfl

theorem readShared_setup (hd : s.inDispatch = false) : readShared .setup s = .error (.fault .setupNotLatched) := by
  refine (bind_ok (getS_apply s)).trans (bind_error ?_)
  cases hs : s.setup with
  | none => simp [readSetup, hs]
  | some p => simp [readSetup, hs, hd]

/-- A line that reads shared state by name stores what the read gives, or stops as the read stops. -/
theorem step_read {x : Shared} {q : List Item} (hf : s.fatal = none) (hd : s.inDispatch = false)
    (hg : s.stageDue = false) (hi : s.inIsr = false) (ht : s.trace = .read x :: q) :
    (∀ v, readShared x { s with trace := q } = .ok (v, { s with trace := q }) →
      step s = .next { s with trace := q, seen := some v })
    ∧ (∀ f, readShared x { s with trace := q } = .error (.fault f) → step s = .fault f) := by
  rw [step_own (fetch_line hf hd hg hi ht)]
  exact ⟨fun v h => outcome_ok (foregroundGet_ok h), fun f h => outcome_fault (foregroundGet_error h)⟩

/-- Settles O30: each line is fetched, and runs as its access does. -/
theorem foregroundWriteFaults : Obligations.ForegroundWriteFaults := by
  refine ⟨fun s i => command_not_writer, fun s a v r q hf hd hg hi hr => ⟨fun ht hm => ?_, fun ht hm hq => ?_,
    fun ht hq => ?_⟩, fun s x q hf hd hg hi hq ht => ?_⟩
  · rw [step_own (fetch_line hf hd hg hi ht)]
    exact outcome_not_writer (s := { s with trace := q }) hi hm _
  · rw [step_own (fetch_line hf hd hg hi ht)]
    exact outcome_ok (foregroundWrite_masked (s := { s with trace := q }) hq hm hr)
  · rw [step_own (fetch_line hf hd hg hi ht)]
    refine (outcome_ok (foregroundRead_quiet (s := { s with trace := q }) hq hr)).trans ?_
    cases r <;> rfl
  · intro gives
    obtain ⟨hok, hfault⟩ := step_read hf hd hg hi ht
    have hget := getS_apply { s with trace := q }
    cases x with
    | pmaWord k =>
      exact ⟨fun hk => hok _ ((bind_ok hget).trans (bind_ok (pmaRead16_quiet (s := { s with trace := q }) hq hk))),
        fun hk => hfault _ ((bind_ok hget).trans (bind_error (pmaRead16_bounds (s := { s with trace := q }) hq hk)))⟩
    | cpuByte a =>
      exact ⟨fun ha => hok _ ((bind_ok hget).trans (bind_ok (memRead_quiet (s := { s with trace := q }) hq ha))),
        fun ha => hfault _ ((bind_ok hget).trans (bind_error (memRead_unmapped (s := { s with trace := q }) hq ha)))⟩
    | setup => exact hfault _ (readShared_setup (s := { s with trace := q }) hd)
    | fatal => exact hf ▸ hok _ rfl
    | inIsr => exact hi ▸ hok _ rfl
    | eptCallback n d =>
      refine (hok _ rfl).trans ?_
      cases d <;> rfl
    | _ => exact hok _ rfl

end Sys2Proof.Machine

/-! The endpoint table (spec/42_endpoint_table.md): the checks of a registration in their order, what it leaves, and where it
stops on a buffer that the SIE owns (R72). -/

namespace Sys2Proof.Machine

/-! ### The checks (R190) -/

section checks

variable {c : Params} {n : Byte} {ty : EpType}

theorem inWindowOk_iff {a : Half} : inWindowOk c a = true ↔ a.toNat % 2 = 0 ∧ a.toNat + 2 ≤ c.pmaBytes := by
  simp [inWindowOk]

theorem outWindowOk_iff {a k : Half} : outWindowOk c a k = true ↔
    a.toNat % 2 = 0 ∧ k.toNat ≤ 1024 ∧ a.toNat + rxSize (encodeRx k) ≤ c.pmaBytes := by
  simp [outWindowOk, and_assoc]

theorem singleTypeOk_iff : singleTypeOk n ty = true ↔ ty ≠ .isochronous ∧ (ty = .control ↔ n = 0) := by
  rw [singleTypeOk, Bool.and_eq_true_iff, bne_iff_ne, beq_iff_eq, Bool.eq_iff_iff, beq_iff_eq, beq_iff_eq]

theorem onewayTypeOk_iff : onewayTypeOk n ty = true ↔ (ty = .bulk ∨ ty = .interrupt) ∧ n ≠ 0 := by
  simp [onewayTypeOk]

theorem doubleTypeOk_iff : doubleTypeOk n ty = true ↔ (ty = .bulk ∨ ty = .isochronous) ∧ n ≠ 0 := by
  simp [doubleTypeOk]

variable {typeOk windowsOk callbacksOk : Bool}

theorem regCheck_epRange (hn : 8 ≤ n.toNat) : regCheck n typeOk windowsOk callbacksOk = some .epRange := if_pos hn

theorem regCheck_epType (hn : n.toNat < 8) (ht : ¬ typeOk = true) :
    regCheck n typeOk windowsOk callbacksOk = some .epType := by
  simp [regCheck, Nat.not_le.2 hn, ht]

theorem regCheck_pmaRange (hn : n.toNat < 8) (ht : typeOk = true) (hw : ¬ windowsOk = true) :
    regCheck n typeOk windowsOk callbacksOk = some .pmaRange := by
  simp [regCheck, Nat.not_le.2 hn, ht, hw]

theorem regCheck_nullCallback (hn : n.toNat < 8) (ht : typeOk = true) (hw : windowsOk = true)
    (hc : ¬ callbacksOk = true) : regCheck n typeOk windowsOk callbacksOk = some .nullCallback := by
  simp [regCheck, Nat.not_le.2 hn, ht, hw, hc]

theorem regCheck_none (hn : n.toNat < 8) (ht : typeOk = true) (hw : windowsOk = true) (hc : callbacksOk = true) :
    regCheck n typeOk windowsOk callbacksOk = none := by
  simp [regCheck, Nat.not_le.2 hn, ht, hw, hc]

end checks

/-! ### A registration: the checks, the configuration, the entry -/

section registration

variable {s : State} {n : Byte} {check : State → Option FatalCause} {conf : M Unit} {en : EptEntry}

/-- With the checks passed the configuration runs, and then the entry is written (R191 to R195). -/
theorem registration_ok {t : State} (hn : n.toNat < 8) (hc : check s = none) (h : conf s = .ok ((), t)) :
    (do let t ← getS; requireChecks (check t); conf; putEntry n en) s = .ok ((), t.setEpt (epOf n hn) en) := by
  have hpass : requireChecks (check s) s = .ok ((), s) := by rw [hc]; rfl
  exact (bind_ok (getS_apply s)).trans ((bind_ok hpass).trans ((bind_ok h).trans (bind_ok (epIndex_ok hn t))))

variable (hw : Writer s)

include hw

/-- A check that fails is a fatal assertion, and nothing follows it (R190, R323). -/
theorem registration_fatal {f : FatalCause} (hc : check s = some f) :
    outcome (do requireWriter; let t ← getS; requireChecks (check t); conf; putEntry n en) s
      = .next { s with fatal := some f } := by
  refine outcome_writer_halt hw ((bind_ok (getS_apply s)).trans (bind_error ?_))
  rw [hc]
  rfl

theorem registration_next {t : State} (hn : n.toNat < 8) (hc : check s = none) (h : conf s = .ok ((), t)) :
    outcome (do requireWriter; let t ← getS; requireChecks (check t); conf; putEntry n en) s
      = .next (t.setEpt (epOf n hn) en) :=
  outcome_writer_ok hw (registration_ok hn hc h)

/-- With the checks passed a registration faults as its configuration does. -/
theorem registration_fault {f : Fault} (hc : check s = none) (h : conf s = .error (.fault f)) :
    outcome (do requireWriter; let t ← getS; requireChecks (check t); conf; putEntry n en) s = .fault f := by
  have hpass : requireChecks (check s) s = .ok ((), s) := by rw [hc]; rfl
  exact outcome_writer_fault hw ((bind_ok (getS_apply s)).trans ((bind_ok hpass).trans (bind_error h)))

end registration

/-- Settles O36: the checks pass, and the configuration is that of R162, R166 or R167. -/
theorem registerSingle : Obligations.RegisterSingle := by
  intro s n hn ty x r c i o hq hw e both tx rx inOk outOk
  refine ⟨fun hty hz hi ho hf => ?_, fun hty hz hi hf => ?_, fun hty hz ho hf => ?_⟩
  · have hwin : (inWindowOk s.cfg x && outWindowOk s.cfg r c) = true :=
      Bool.and_eq_true_iff.2 ⟨inWindowOk_iff.2 hi, outWindowOk_iff.2 ho⟩
    exact registration_next hw hn (regCheck_none hn (singleTypeOk_iff.2 ⟨hty, hz⟩) hwin rfl)
      (epConfigure_quiet hq hn rfl hf)
  · exact registration_next hw hn (regCheck_none hn (onewayTypeOk_iff.2 ⟨hty, hz⟩) (inWindowOk_iff.2 hi) rfl)
      (epConfigureTx_quiet hq hn rfl hf)
  · exact registration_next hw hn (regCheck_none hn (onewayTypeOk_iff.2 ⟨hty, hz⟩) (outWindowOk_iff.2 ho) rfl)
      (epConfigureRx_quiet hq hn rfl hf)

/-- Settles O37: the checks pass, and the configuration is that of R163 or R164. -/
theorem registerDouble : Obligations.RegisterDouble := by
  intro s n hn ty x y c f hq hw hz hty hx hy e tx rx
  have htype : doubleTypeOk n ty = true := doubleTypeOk_iff.2 ⟨hty, hz⟩
  refine ⟨fun hxb hyb hf => ?_, fun hc hxb hyb hf => ?_⟩
  · have hwin : (inWindowOk s.cfg x && inWindowOk s.cfg y) = true :=
      Bool.and_eq_true_iff.2 ⟨inWindowOk_iff.2 ⟨hx, hxb⟩, inWindowOk_iff.2 ⟨hy, hyb⟩⟩
    exact registration_next hw hn (regCheck_none hn htype hwin rfl) (epConfigureDoubleTx_quiet hq hn rfl hf)
  · have hwin : (outWindowOk s.cfg x c && outWindowOk s.cfg y c) = true :=
      Bool.and_eq_true_iff.2 ⟨outWindowOk_iff.2 ⟨hx, hc, hxb⟩, outWindowOk_iff.2 ⟨hy, hc, hyb⟩⟩
    exact registration_next hw hn (regCheck_none hn htype hwin rfl) (epConfigureDoubleRx_quiet hq hn rfl hf)

/-- Settles O38: the range is checked first, and then the register and the entry are cleared. -/
theorem unregisterResult : Obligations.UnregisterResult := by
  intro s n hw
  refine ⟨fun hn hq => outcome_writer_ok hw ?_, fun hn => outcome_writer_halt hw ?_⟩
  · have hpass : requireChecks (if 8 ≤ n.toNat then some .epRange else none) s = .ok ((), s) := by
      rw [if_neg (Nat.not_le.2 hn)]
      rfl
    have hclear : epClearConfiguration n s = .ok ((), s.setEpr (epOf n hn) (s.epr[epOf n hn] &&& setupBit)) :=
      (bind_ok (epIndex_ok hn s)).trans (clearConfigurationAt_quiet hq _)
    exact (bind_ok hpass).trans ((bind_ok hclear).trans (bind_ok (epIndex_ok hn _)))
  · refine bind_error ?_
    rw [if_pos hn]
    rfl

/-- Settles O39: each premise fails one check and passes those before it. -/
theorem registrationChecks : Obligations.RegistrationChecks := by
  intro s n ty x y c i o hw
  refine ⟨fun hn => ?_, fun hn => ⟨fun ht => ?_, fun ht => ?_, fun ht => ?_, fun hty hz => ?_, fun hty hz => ?_,
    fun hty hz => ?_⟩⟩
  · refine ⟨?_, ?_, ?_, ?_, ?_⟩ <;> exact registration_fatal hw (regCheck_epRange hn)
  · have htype : ¬ singleTypeOk n ty = true := by rw [singleTypeOk_iff]; grind
    exact registration_fatal hw (regCheck_epType hn htype)
  · have htype : ¬ onewayTypeOk n ty = true := by rw [onewayTypeOk_iff]; grind
    exact ⟨registration_fatal hw (regCheck_epType hn htype), registration_fatal hw (regCheck_epType hn htype)⟩
  · have htype : ¬ doubleTypeOk n ty = true := by rw [doubleTypeOk_iff]; grind
    exact ⟨registration_fatal hw (regCheck_epType hn htype), registration_fatal hw (regCheck_epType hn htype)⟩
  · have htype : singleTypeOk n ty = true := singleTypeOk_iff.2 ⟨hty, hz⟩
    refine ⟨fun hbad => registration_fatal hw (regCheck_pmaRange hn htype ?_), fun hx hxb hy hc hyb hcb =>
      registration_fatal hw (regCheck_nullCallback hn htype ?_ ?_)⟩
    · rw [Bool.and_eq_true_iff, inWindowOk_iff, outWindowOk_iff]
      omega
    · exact Bool.and_eq_true_iff.2 ⟨inWindowOk_iff.2 ⟨hx, hxb⟩, outWindowOk_iff.2 ⟨hy, hc, hyb⟩⟩
    · obtain rfl | rfl := hcb <;> simp
  · have htype : onewayTypeOk n ty = true := onewayTypeOk_iff.2 ⟨hty, hz⟩
    refine ⟨fun hbad => registration_fatal hw (regCheck_pmaRange hn htype ?_), fun hx hxb =>
      registration_fatal hw (regCheck_nullCallback hn htype (inWindowOk_iff.2 ⟨hx, hxb⟩) Bool.false_ne_true),
      fun hbad => registration_fatal hw (regCheck_pmaRange hn htype ?_), fun hy hc hyb =>
      registration_fatal hw (regCheck_nullCallback hn htype (outWindowOk_iff.2 ⟨hy, hc, hyb⟩) Bool.false_ne_true)⟩
    · rw [inWindowOk_iff]
      omega
    · rw [outWindowOk_iff]
      omega
  · have htype : doubleTypeOk n ty = true := doubleTypeOk_iff.2 ⟨hty, hz⟩
    refine ⟨fun hbad => registration_fatal hw (regCheck_pmaRange hn htype ?_), fun hx hxb hy hyb =>
      registration_fatal hw (regCheck_nullCallback hn htype ?_ Bool.false_ne_true),
      fun hbad => registration_fatal hw (regCheck_pmaRange hn htype ?_), fun hx hy hc hxb hyb =>
      registration_fatal hw (regCheck_nullCallback hn htype ?_ Bool.false_ne_true)⟩
    · rw [Bool.and_eq_true_iff, inWindowOk_iff, inWindowOk_iff]
      omega
    · exact Bool.and_eq_true_iff.2 ⟨inWindowOk_iff.2 ⟨hx, hxb⟩, inWindowOk_iff.2 ⟨hy, hyb⟩⟩
    · rw [Bool.and_eq_true_iff, outWindowOk_iff, outWindowOk_iff]
      omega
    · exact Bool.and_eq_true_iff.2 ⟨outWindowOk_iff.2 ⟨hx, hc, hxb⟩, outWindowOk_iff.2 ⟨hy, hc, hyb⟩⟩

/-! ### Reconfiguring an armed endpoint (R72, R384) -/

/-- The SIE owns `COUNT_TX` of an armed IN direction (R72). -/
theorem sieOwns_countTx {s : State} {e : Fin 8} (ho : txOwned s.epr[e] = true) :
    sieOwns s (bdIndex s.cfg e .countTx) = true :=
  (anyEp_iff _).2 ⟨e, by rw [ownsThrough, ho, beq_self_eq_true, Bool.true_or, Bool.true_and, Bool.true_or]⟩

/-- The SIE owns `COUNT_RX` of an armed OUT direction (R72). -/
theorem sieOwns_countRx {s : State} {e : Fin 8} (ho : rxOwned s.epr[e] = true) :
    sieOwns s (bdIndex s.cfg e .countRx) = true :=
  (anyEp_iff _).2 ⟨e, by rw [ownsThrough, ho, beq_self_eq_true, Bool.true_or, Bool.true_and, Bool.or_true]⟩

section owned

variable {s : State} (hq : Quiet s) {e : Fin 8} {α : Type} {m : M α}

include hq

/-- After one free word, a word that the SIE owns stops the configuration. -/
theorem bdWrite_then_owned {f g : BdField} {w v : Half} (hk : 2 * bdIndex s.cfg e g + 2 ≤ s.cfg.pmaBytes)
    (ho : sieOwns (s.putWords (bdWords s.cfg e [(f, w)])) (bdIndex s.cfg e g) = true)
    (hf : wordsFree s (bdWords s.cfg e [(f, w)]) = true) :
    (do bdWrite e f w; bdWrite e g v; m) s = .error (.fault .ownership) :=
  (bind_ok (bdWrite_free hq hf)).trans (bind_error ((bind_ok (getS_apply _)).trans
    (pmaWrite16_owned (s := s.putWords (bdWords s.cfg e [(f, w)])) hq v hk ho)))

variable (hk : 2 * bdIndex s.cfg e .countRx + 2 ≤ s.cfg.pmaBytes)

include hk

/-- After one free word, `COUNT_TX` of an owned IN direction stops the configuration. -/
theorem bdWrite_countTx_owned (ho : txOwned s.epr[e] = true) {f : BdField} {w v : Half}
    (hf : wordsFree s (bdWords s.cfg e [(f, w)]) = true) :
    (do bdWrite e f w; bdWrite e .countTx v; m) s = .error (.fault .ownership) := by
  have hk' : 2 * bdIndex s.cfg e .countTx + 2 ≤ s.cfg.pmaBytes := by
    simp only [bdIndex, BdField.index] at hk ⊢
    omega
  exact bdWrite_then_owned hq hk' (sieOwns_countTx (s := s.putWords _) ho) hf

/-- After one free word, `COUNT_RX` of an owned OUT direction stops the configuration. -/
theorem bdWrite_countRx_owned (ho : rxOwned s.epr[e] = true) {f : BdField} {w v : Half}
    (hf : wordsFree s (bdWords s.cfg e [(f, w)]) = true) :
    (do bdWrite e f w; bdWrite e .countRx v; m) s = .error (.fault .ownership) :=
  bdWrite_then_owned hq hk (sieOwns_countRx (s := s.putWords _) ho) hf

/-- After three free words, `COUNT_RX` of an owned OUT direction stops the configuration. -/
theorem bdWrite_countRx_owned_last (ho : rxOwned s.epr[e] = true) {f1 f2 f3 : BdField} {w1 w2 w3 v : Half}
    (hf : wordsFree s (bdWords s.cfg e [(f1, w1), (f2, w2), (f3, w3)]) = true) :
    (do bdWrite e f1 w1; bdWrite e f2 w2; bdWrite e f3 w3; bdWrite e .countRx v; m) s = .error (.fault .ownership) := by
  obtain ⟨hfree, hlast⟩ := (wordsFree_append (l := bdWords s.cfg e [(f1, w1), (f2, w2)])).1 hf
  exact (bdWrite_two hq hfree _).trans
    (bdWrite_countRx_owned (s := s.putWords (bdWords s.cfg e [(f1, w1), (f2, w2)])) hq hk ho hlast)

end owned

/-- Settles O31: each configuration reaches the owned count word, and each registration whose checks hold its configuration. -/
theorem reconfigureArmedFaults : Obligations.ReconfigureArmedFaults := by
  intro s n hn ty x y c f g hq hw e free stops inOk outOk single oneway double hk
  have hin : ∀ {a}, inOk a → inWindowOk s.cfg a = true := inWindowOk_iff.2
  have hout : ∀ {a}, outOk a → outWindowOk s.cfg a c = true := outWindowOk_iff.2
  have hboth : ∀ {p q : Bool}, p = true → q = true → (p && q) = true := fun hp hq => Bool.and_eq_true_iff.2 ⟨hp, hq⟩
  have hsingle : single → singleTypeOk n ty = true := singleTypeOk_iff.2
  have honeway : oneway → onewayTypeOk n ty = true := onewayTypeOk_iff.2
  have hdouble : double → doubleTypeOk n ty = true := doubleTypeOk_iff.2
  have hep := epIndex_ok hn s
  refine ⟨fun ho hfree => ?_, fun ho => ⟨fun hfree => ?_, fun hfree => ?_, fun hfree => ?_⟩⟩
  · have h1 : epConfigure n ty x y c s = .error (.fault .ownership) :=
      (bind_ok hep).trans (bdWrite_countTx_owned hq hk ho hfree)
    have h2 : epConfigureTx n ty x s = .error (.fault .ownership) :=
      (bind_ok hep).trans (bdWrite_countTx_owned hq hk ho hfree)
    have h3 : epConfigureDoubleTx n ty x y s = .error (.fault .ownership) :=
      (bind_ok hep).trans (bdWrite_countTx_owned hq hk ho hfree)
    have h4 : epConfigureDoubleRx n ty x y c s = .error (.fault .ownership) :=
      (bind_ok hep).trans (bdWrite_countTx_owned hq hk ho hfree)
    exact ⟨outcome_writer_fault hw h1, outcome_writer_fault hw h2, outcome_writer_fault hw h3, outcome_writer_fault hw h4,
      fun ht hx hy => registration_fault hw (regCheck_none hn (hsingle ht) (hboth (hin hx) (hout hy)) rfl) h1,
      fun ht hx => registration_fault hw (regCheck_none hn (honeway ht) (hin hx) rfl) h2,
      fun ht hx hy => registration_fault hw (regCheck_none hn (hdouble ht) (hboth (hin hx) (hin hy)) rfl) h3,
      fun ht hx hy => registration_fault hw (regCheck_none hn (hdouble ht) (hboth (hout hx) (hout hy)) rfl) h4⟩
  · have h1 : epConfigure n ty x y c s = .error (.fault .ownership) :=
      (bind_ok hep).trans (bdWrite_countRx_owned_last hq hk ho hfree)
    have h2 : epConfigureDoubleTx n ty x y s = .error (.fault .ownership) :=
      (bind_ok hep).trans (bdWrite_countRx_owned_last hq hk ho hfree)
    exact ⟨outcome_writer_fault hw h1, outcome_writer_fault hw h2,
      fun ht hx hy => registration_fault hw (regCheck_none hn (hsingle ht) (hboth (hin hx) (hout hy)) rfl) h1,
      fun ht hx hy => registration_fault hw (regCheck_none hn (hdouble ht) (hboth (hin hx) (hin hy)) rfl) h2⟩
  · have h1 : epConfigureDoubleRx n ty x y c s = .error (.fault .ownership) :=
      (bind_ok hep).trans (bdWrite_countRx_owned_last hq hk ho hfree)
    exact ⟨outcome_writer_fault hw h1,
      fun ht hx hy => registration_fault hw (regCheck_none hn (hdouble ht) (hboth (hout hx) (hout hy)) rfl) h1⟩
  · have h1 : epConfigureRx n ty y c s = .error (.fault .ownership) :=
      (bind_ok hep).trans (bdWrite_countRx_owned hq hk ho hfree)
    exact ⟨outcome_writer_fault hw h1,
      fun ht hy => registration_fault hw (regCheck_none hn (honeway ht) (hout hy) rfl) h1⟩

end Sys2Proof.Machine

/-! The byte packer (spec/40_pma_transfer.md): the bytes that `pma_write` and `pma_read` leave (R140, R141), their round trip
(R142), and where they stop (R61, R66, R67, R72). -/

namespace Sys2Proof.Machine

/-! ### Bytes after the whole transfer -/

/-- A byte after whole words are written from the bytes of CPU memory: the source's byte, or as it was. -/
theorem Memory.read_writeWords_wordPairs (cpu : Memory) (n : Nat) (m : Memory) (src : Addr) (k b : Nat) :
    (m.writeWords (wordPairs cpu src k n)).read b =
      if 2 * k ≤ b ∧ b < 2 * k + 2 * n then cpu.read (src + BitVec.ofNat 32 (b - 2 * k)).toNat else m.read b := by
  induction n generalizing m src k with
  | zero =>
    rw [if_neg (by omega)]
    rfl
  | succ n ih =>
    rw [wordPairs_succ, Memory.writeWords, ih, Memory.read_writeWord, byteAt_le16_low, byteAt_le16_high]
    by_cases hlow : b = 2 * k
    · rw [if_neg (by omega), if_pos hlow, if_pos (by omega), hlow, Nat.sub_self]
      exact congrArg (fun a : Addr => cpu.read a.toNat) (BitVec.add_zero src).symm
    by_cases hhigh : b = 2 * k + 1
    · rw [if_neg (by omega), if_neg hlow, if_pos hhigh, if_pos (by omega), hhigh, Nat.add_sub_cancel_left]
      rfl
    by_cases hin : 2 * (k + 1) ≤ b ∧ b < 2 * (k + 1) + 2 * n
    · have hoff : b - 2 * k = 2 + (b - 2 * (k + 1)) := by omega
      rw [if_pos hin, if_pos (by omega), hoff, BitVec.ofNat_add, ← BitVec.add_assoc]
      rfl
    · rw [if_neg hin, if_neg hlow, if_neg hhigh, if_neg (by omega)]

/-- Bytes outside the addresses written are unchanged. -/
theorem Memory.read_writeFrom_of_ne (l : List Byte) (m : Memory) (a : Addr) {b : Nat}
    (h : ∀ i, i < l.length → b ≠ (a + BitVec.ofNat 32 i).toNat) : (m.writeFrom a l).read b = m.read b := by
  induction l generalizing m a with
  | nil => rfl
  | cons x l ih =>
    have h0 : b ≠ a.toNat := by simpa using h 0 (Nat.succ_pos _)
    rw [Memory.writeFrom, ih, Memory.read_write, if_neg (Ne.symm h0)]
    intro i hi
    have := h (i + 1) (Nat.succ_lt_succ hi)
    rwa [Nat.add_comm i 1, BitVec.ofNat_add, ← BitVec.add_assoc] at this

/-- A byte of a string written to CPU memory reads back: no later byte falls on it, as the string is shorter than the memory. -/
theorem Memory.read_writeFrom (l : List Byte) (m : Memory) (a : Addr) (hl : l.length ≤ 2 ^ 32) (i : Nat)
    (hi : i < l.length) : (m.writeFrom a l).read (a + BitVec.ofNat 32 i).toNat = l[i] := by
  induction l generalizing m a i with
  | nil => exact absurd hi (Nat.not_lt_zero i)
  | cons x l ih =>
    rw [List.length_cons] at hl hi
    cases i with
    | zero =>
      rw [Memory.writeFrom, Memory.read_writeFrom_of_ne, Memory.read_write, if_pos (by simp), List.getElem_cons_zero]
      intro j hj he
      have hone : (1 : Addr).toNat = 1 := rfl
      simp only [BitVec.toNat_add, BitVec.toNat_ofNat, hone] at he
      have := a.isLt
      omega
    | succ i =>
      rw [Memory.writeFrom, List.getElem_cons_succ, ← ih (m.write a.toNat x) (a + 1) (by omega) i (by omega),
        Nat.add_comm i 1, BitVec.ofNat_add, ← BitVec.add_assoc]
      rfl

section packer

variable {s : State} {src dst : Addr} {o c : Half}

/-- A byte of the packet memory after `pma_write`: the source's byte within the count, outside the words written as it was. -/
theorem State.packed_read (ho : o.toNat % 2 = 0) :
    (∀ i, i < c.toNat → (s.packed src o c).pma.read (o.toNat + i) = s.cpu.read (src + BitVec.ofNat 32 i).toNat)
    ∧ ∀ a, a < o.toNat ∨ o.toNat + 2 * ((c.toNat + 1) / 2) ≤ a → (s.packed src o c).pma.read a = s.pma.read a := by
  have hstart : 2 * (o.toNat / 2) = o.toNat := by omega
  have hpairs := Memory.read_writeWords_wordPairs s.cpu (c.toNat / 2) s.pma src (o.toNat / 2)
  simp only [State.packed, packedWords_eq, Memory.writeWords_append, odd_iff, decide_eq_true_eq]
  by_cases hodd : c.toNat % 2 = 1
  · rw [if_pos hodd]
    simp only [Memory.writeWords, Memory.read_writeWord, hpairs, byteAt_le16_low, byteAt_le16_high]
    refine ⟨fun i hi => ?_, fun a ha => ?_⟩
    · by_cases hlast : i = c.toNat - 1
      · rw [if_pos (by omega), add_tail_sub hodd, hlast]
      · rw [if_neg (by omega), if_neg (by omega), if_pos (by omega), hstart, Nat.add_sub_cancel_left]
    · rw [if_neg (by omega), if_neg (by omega), if_neg (by omega)]
  · rw [if_neg hodd]
    simp only [Memory.writeWords, hpairs]
    refine ⟨fun i hi => ?_, fun a ha => ?_⟩
    · rw [if_pos (by omega), hstart, Nat.add_sub_cancel_left]
    · rw [if_neg (by omega)]

/-- A byte of CPU memory after `pma_read`: the packet byte within the count, every other byte as it was. -/
theorem State.unpacked_read :
    (∀ i, i < c.toNat → (s.unpacked o dst c).cpu.read (dst + BitVec.ofNat 32 i).toNat = s.pma.read (o.toNat + i))
    ∧ ∀ a, (∀ i, i < c.toNat → a ≠ (dst + BitVec.ofNat 32 i).toNat) → (s.unpacked o dst c).cpu.read a = s.cpu.read a := by
  have hlen := Memory.length_bytes s.pma o.toNat c.toNat
  refine ⟨fun i hi => ?_, fun a ha => Memory.read_writeFrom_of_ne _ _ _ (hlen.symm ▸ ha)⟩
  have hc := c.isLt
  exact (Memory.read_writeFrom _ _ _ (by omega) i (by omega)).trans (Memory.getElem_bytes ..)

theorem pmaWritable_even (h : pmaWritable s src o c = true) : o.toNat % 2 = 0 := by
  simp only [pmaWritable, Bool.and_eq_true, decide_eq_true_eq] at h
  exact h.1.1.1

/-- After `pma_write` the same window may be read. -/
theorem pmaReadable_of_pmaWritable (h : pmaWritable s src o c = true) (hp : s.cfg.pmaBytes % 2 = 0)
    (hm : mappedFrom s.cfg dst c.toNat = true) : pmaReadable (s.packed src o c) o dst c = true := by
  simp only [pmaWritable, Bool.and_eq_true] at h
  obtain ⟨⟨⟨ho, hb⟩, -⟩, -⟩ := h
  simp only [pmaReadable, Bool.and_eq_true, decide_eq_true_eq]
  exact ⟨⟨⟨hp, of_decide_eq_true ho⟩, hb⟩, hm⟩

/-- Settles O32: the state is `packed`, read byte by byte. -/
theorem pmaWriteBytes : Obligations.PmaWriteBytes := by
  intro s src o c hq hw hok
  obtain ⟨hin, hout⟩ := State.packed_read (s := s) (src := src) (pmaWritable_even hok)
  exact ⟨s.packed src o c, outcome_writer_ok hw (pmaWrite_quiet hq hok), hin, hout, rfl⟩

/-- Settles O33: the state is `unpacked`, read byte by byte. -/
theorem pmaReadBytes : Obligations.PmaReadBytes := by
  intro s o dst c hq hw hok
  obtain ⟨hin, hout⟩ := State.unpacked_read (s := s) (dst := dst) (o := o) (c := c)
  exact ⟨s.unpacked o dst c, outcome_writer_ok hw (pmaRead_quiet hq hok), hin, hout, rfl⟩

/-- Settles O35: the read gives the packet bytes, which are the source's, so the drawn byte is not among them. -/
theorem pmaRoundTrip : Obligations.PmaRoundTrip := by
  intro s src dst o c hq hw hok hp hm
  obtain ⟨hin, -⟩ := State.packed_read (s := s) (src := src) (c := c) (pmaWritable_even hok)
  obtain ⟨hback, -⟩ := State.unpacked_read (s := s.packed src o c) (dst := dst) (o := o) (c := c)
  refine ⟨s.packed src o c, (s.packed src o c).unpacked o dst c, outcome_writer_ok hw (pmaWrite_quiet hq hok),
    outcome_writer_ok (s := s.packed src o c) hw
      (pmaRead_quiet (s := s.packed src o c) hq (pmaReadable_of_pmaWritable hok hp hm)), fun i hi => ?_⟩
  rw [hback i hi, hin i hi]

end packer

/-! ### Where the packer stops -/

section stops

variable {s : State} {a : Addr} {o c : Half}

/-- R66: an odd offset. -/
theorem pmaCheck_misaligned (ho : o.toNat % 2 = 1) : pmaCheck o c s = .error (.fault .pmaMisaligned) := by
  refine (bind_ok (getS_apply s)).trans ?_
  rw [if_pos (by rw [odd_iff, ho]; rfl)]
  rfl

/-- R67: a transfer of some bytes past the packet memory. -/
theorem pmaCheck_bounds (ho : o.toNat % 2 = 0) (hc : c ≠ 0) (hb : s.cfg.pmaBytes < o.toNat + c.toNat) :
    pmaCheck o c s = .error (.fault .pmaBounds) := by
  refine (bind_ok (getS_apply s)).trans ?_
  rw [if_neg (by rw [odd_iff, ho]; decide), if_pos ⟨hc, hb⟩]
  rfl

variable (hq : Quiet s) {k n : Nat}

include hq

theorem memWrite_unmapped (v : Byte) (ha : s.cfg.mapped a = false) : memWrite a v s = .error (.fault .cpuBus) := by
  refine (bind_ok (tick_quiet hq)).trans ((bind_ok (getS_apply s)).trans ?_)
  rw [if_neg (by rw [ha]; exact Bool.false_ne_true)]
  rfl

/-- R72: a first word that the SIE owns stops the whole words of a `pma_write`. -/
theorem pmaWriteWords_owned (hk : 2 * k + 2 ≤ s.cfg.pmaBytes) (h0 : s.cfg.mapped a = true)
    (h1 : s.cfg.mapped (a + 1) = true) (ho : sieOwns s k = true) :
    pmaWriteWords a k (n + 1) s = .error (.fault .ownership) :=
  (bind_ok (memRead_quiet hq h0)).trans ((bind_ok (memRead_quiet hq h1)).trans
    (bind_error (pmaWrite16_owned hq _ hk ho)))

/-- R61: a first byte of CPU memory that is not mapped stops the whole words of a `pma_write`. -/
theorem pmaWriteWords_unmapped (h0 : s.cfg.mapped a = false) : pmaWriteWords a k (n + 1) s = .error (.fault .cpuBus) :=
  bind_error (memRead_unmapped hq h0)

/-- R61: a first byte of CPU memory that is not mapped stops the whole words of a `pma_read`. -/
theorem pmaReadWords_unmapped (hk : 2 * k + 2 ≤ s.cfg.pmaBytes) (h0 : s.cfg.mapped a = false) :
    pmaReadWords a k (n + 1) s = .error (.fault .cpuBus) :=
  (bind_ok (pmaRead16_quiet hq hk)).trans (bind_error (memWrite_unmapped hq _ h0))

end stops

/-- Settles O34: the checks come first, and then the first whole word. -/
theorem pmaStops : Obligations.PmaStops := by
  intro s a o c hq hw
  refine ⟨fun ho => ?_, fun ho hc hb => ?_, fun ho hc hb => ?_⟩
  · exact ⟨outcome_writer_fault hw (bind_error (pmaCheck_misaligned ho)),
      outcome_writer_fault hw (bind_error (pmaCheck_misaligned ho))⟩
  · exact ⟨outcome_writer_fault hw (bind_error (pmaCheck_bounds ho hc hb)),
      outcome_writer_fault hw (bind_error (pmaCheck_bounds ho hc hb))⟩
  · have hcheck : pmaCheck o c s = .ok ((), s) := pmaCheck_ok ho (.inr hb)
    have hk : 2 * (o.toNat / 2) + 2 ≤ s.cfg.pmaBytes := by omega
    obtain ⟨n, hn⟩ : ∃ n, c.toNat / 2 = n + 1 := ⟨c.toNat / 2 - 1, by omega⟩
    refine ⟨fun h0 h1 hown => outcome_writer_fault hw ((bind_ok hcheck).trans (bind_error ?_)), fun h0 =>
      ⟨outcome_writer_fault hw ((bind_ok hcheck).trans (bind_error ?_)),
        outcome_writer_fault hw ((bind_ok hcheck).trans (bind_error ?_))⟩⟩
    · rw [hn]
      exact pmaWriteWords_owned hq hk h0 h1 hown
    · rw [hn]
      exact pmaWriteWords_unmapped hq h0
    · rw [hn]
      exact pmaReadWords_unmapped hq hk h0

end Sys2Proof.Machine

/-! Initialisation (R362) and the control machine (spec/43_control_fsm.md): what each response and each stage leaves with no SIE
step inside it. -/

namespace Sys2Proof.Machine

/-! ### Initialisation (R362, R363) -/

theorem driverComplete_iff (f : DriverFlags) : driverComplete f = true ↔ ∀ k, k < 16 → f.getLsbD k = true := by
  have hones : ∀ k, k < 16 → (0xFFFF : Half).getLsbD k = true := by decide
  rw [driverComplete, beq_iff_eq]
  refine ⟨fun h k hk => ?_, fun h => BitVec.eq_of_getLsbD_eq fun k hk => ?_⟩
  · have := congrArg (·.getLsbD k) h
    simpa only [BitVec.getLsbD_extractLsb', hk, decide_true, Bool.true_and, Nat.zero_add, hones k hk] using this
  · rw [BitVec.getLsbD_extractLsb', Nat.zero_add, h k hk, hones k hk, decide_eq_true hk]
    rfl

theorem istrWrite_zero (old : Half) : istrWrite old 0 = 0 := by simp [istrWrite]

/-- An incomplete driver is fatal before anything is written. -/
theorem coreInit_incomplete {f : DriverFlags} (h : ¬ driverComplete f = true) (s : State) :
    coreInit (some f) s = .error (.halt { s with fatal := some .nullDriverCb }) := by
  rw [coreInit, if_neg h]
  rfl

/-- Settles O40: the writes in turn for a complete driver, and the first check for any other. -/
theorem coreInitResult : Obligations.CoreInitResult := by
  intro s hq
  refine ⟨fun f hf => outcome_ok ?_, fun f k hk hf => outcome_halt (coreInit_incomplete ?_ s), rfl⟩
  · rw [coreInit, if_pos ((driverComplete_iff f).2 hf)]
    refine (bind_ok (upd_apply _ s)).trans ?_
    refine (bind_ok (regWrite_quiet (s := { s with driver := f }) hq .cntr _)).trans ?_
    refine (bind_ok (regWrite_quiet (by exact hq) .istr _)).trans ((bind_ok (getS_apply _)).trans ?_)
    refine (bind_ok (regWrite_quiet (by exact hq) .btable _)).trans ((bind_ok (upd_apply _ _)).trans ?_)
    refine (regWrite_quiet (by exact hq) .cntr _).trans ?_
    simp only [State.writeReg, istrWrite_zero]
    rfl
  · rw [driverComplete_iff]
    intro h
    rw [h k hk] at hf
    cases hf

/-! ### The responses (R214, R219, R223, R231) -/

/-- What `pma_write` may do hangs on the parameters, the memories, the endpoint registers and the draws alone. -/
theorem pmaWritable_congr {s t : State} (hc : t.cfg = s.cfg) (hr : t.epr = s.epr) (hp : t.pma = s.pma) (hm : t.cpu = s.cpu)
    (hd : t.draws = s.draws) (src : Addr) (o c : Half) : pmaWritable t src o c = pmaWritable s src o c := by
  have hwords : packedWords t src o c = packedWords s src o c := by rw [packedWords, packedWords, hm, hd]
  rw [pmaWritable, pmaWritable, hwords, wordsFree_congr hc hr hp, hc]

/-- What `send_chunk` may do hangs on the context besides. -/
theorem chunkWritable_congr {s t : State} (hc : t.cfg = s.cfg) (hr : t.epr = s.epr) (hp : t.pma = s.pma)
    (hm : t.cpu = s.cpu) (hd : t.draws = s.draws) (hx : t.ctx = s.ctx) : chunkWritable t = chunkWritable s := by
  have hchunk : chunk t = chunk s := by rw [chunk, chunk, hx, hc]
  have hpma : ∀ a o c, (t.packed a o c).pma = (s.packed a o c).pma := by
    intro a o c
    simp only [State.packed, packedWords, hp, hm, hd]
  rw [chunkWritable, chunkWritable, hchunk, hx, hc, pmaWritable_congr hc hr hp hm hd]
  refine congrArg _ (wordsFree_congr ?_ ?_ (hpma ..) _)
  · exact hc
  · exact hr

/-- Settles O41: the chunk may be sent in the state with the context set, as it may in the given one. -/
theorem prepareDataInResult : Obligations.PrepareDataInResult := by
  intro s p buf count hq hw hd hp c n out u hpack hcount
  have hsend : chunkWritable (s.dataInCtx p buf count) = true := by
    rw [chunkWritable, Bool.and_eq_true]
    exact ⟨(pmaWritable_congr (s := s) (t := s.dataInCtx p buf count) rfl rfl rfl rfl rfl ..).trans hpack,
      (wordsFree_congr rfl rfl rfl _).trans hcount⟩
  exact outcome_writer_ok hw (prepareDataIn_quiet hq hd hp hsend)

/-- `prepare_data_out_stage` of some bytes arms OUT (R219). -/
theorem prepareDataOut_quiet {s : State} (hq : Quiet s) (hd : MayRespond s) {buf count : Addr} {f : Option CbId}
    (hc : count ≠ 0) : prepareDataOut buf count f s = .ok ((), { s with
      responded := true
      ctx := { buffer := buf, remaining := count, stage := 2, completion := f } }.setStat0 .dirOut .valid) := by
  refine (bind_ok (requireDispatch_ok hd)).trans ((bind_ok (upd_apply _ _)).trans ?_)
  rw [if_neg hc]
  exact setStat0_quiet (by exact hq) .dirOut .valid

/-- `prepare_data_out_stage` of no bytes enters Status-In (R219, R222). -/
theorem prepareDataOut_zero_quiet {s : State} (hq : Quiet s) (hd : MayRespond s) (hf : StatusInFree s) {buf : Addr}
    {f : Option CbId} : prepareDataOut buf 0 f s = .ok ((), { s with
      responded := true
      ctx := { buffer := buf, remaining := 0, stage := stDataOut, completion := f } }.statusInEntered) := by
  refine (bind_ok (requireDispatch_ok hd)).trans ((bind_ok (upd_apply _ _)).trans ?_)
  exact enterStatusIn_quiet (by exact hq) ((wordsFree_congr rfl rfl rfl _).trans hf)

/-- Settles O42: each response from the state in which it is noted. -/
theorem responseResults : Obligations.ResponseResults := by
  intro s buf count f cause hq hw hd
  exact ⟨fun hc => outcome_writer_ok hw (prepareDataOut_quiet hq hd hc),
    fun hf => outcome_writer_ok hw (prepareDataOut_zero_quiet hq hd hf),
    fun hf => outcome_writer_ok hw (prepareStatusIn_quiet hq hd hf),
    outcome_writer_ok hw (stallResponse_quiet hq hd cause)⟩

/-- Settles O43: each response asks for a running dispatch first. -/
theorem responseContextFaults : Obligations.ResponseContextFaults := by
  intro s buf count f cause hw hd
  have hno := requireDispatch_fault hd
  exact ⟨outcome_writer_fault hw (bind_error hno), outcome_writer_fault hw (bind_error hno),
    outcome_writer_fault hw (bind_error hno), outcome_writer_fault hw (bind_error hno)⟩

/-! ### The stages (R210) -/

section stages

variable {s : State} (hq : Quiet s)

/-- A stage runs on the event of the completion, with the callback no longer due. -/
theorem takeEvent_apply (s : State) : takeEvent s = .ok (s.ev, { s with stageDue := false }) := rfl

include hq

/-- The eight bytes of the EP0 OUT buffer, as words and as a packet (R211). -/
theorem readPacket_quiet (ho : s.cfg.ep0RxOff.toNat % 2 = 0) (hb : s.cfg.ep0RxOff.toNat + 8 ≤ s.cfg.pmaBytes) :
    ∃ p, parseSetup (s.pma.bytes s.cfg.ep0RxOff.toNat 8) = some p ∧ readPacket s = .ok (p, s) := by
  obtain ⟨k, hk⟩ : ∃ k, s.cfg.ep0RxOff.toNat = 2 * k := ⟨_, (Nat.mul_div_cancel' (Nat.dvd_of_mod_eq_zero ho)).symm⟩
  refine ⟨_, rfl, (bind_ok (getS_apply s)).trans ?_⟩
  rw [hk, Nat.mul_div_cancel_left k Nat.two_pos]
  refine (bind_ok (pmaRead16_quiet hq (by omega))).trans ((bind_ok (pmaRead16_quiet hq (by omega))).trans
    ((bind_ok (pmaRead16_quiet hq (by omega))).trans ((bind_ok (pmaRead16_quiet hq (by omega))).trans ?_)))
  simp only [Memory.word, byteAt_le16_low, byteAt_le16_high]
  rfl

/-- A completion on EP0 OUT copies what arrived, up to what remains (R221). -/
theorem receiveChunk_quiet (hk : 2 * bdIndex s.cfg 0 .countRx + 2 ≤ s.cfg.pmaBytes) {n : Nat}
    (hn : n = min s.ctx.remaining.toNat (countOf (bdWord s 0 .countRx)))
    (hr : pmaReadable s s.cfg.ep0RxOff s.ctx.buffer (BitVec.ofNat 16 n) = true) :
    receiveChunk s = .ok (countOf (bdWord s 0 .countRx),
      { s.unpacked s.cfg.ep0RxOff s.ctx.buffer (BitVec.ofNat 16 n) with ctx := s.ctx.advance n }) := by
  subst hn
  refine (bind_ok (bdRead_quiet hq hk)).trans ((bind_ok (getS_apply s)).trans ?_)
  exact (bind_ok (pmaRead_quiet hq hr)).trans (bind_ok (upd_apply _ _))

/-- A completion that is no SETUP is stalled (R213). -/
theorem setupStage_not_setup {e : Ev} (h : e.dir = .dirIn ∨ e.setup = false) :
    setupStage e s = .ok ((), s.stalled sNotSetup) := by
  rw [setupStage, if_pos h]
  exact stallBoth_quiet hq _

/-- A SETUP of another length is stalled (R213). -/
theorem setupStage_length {e : Ev} (h : ¬ (e.dir = .dirIn ∨ e.setup = false))
    (hk : 2 * bdIndex s.cfg 0 .countRx + 2 ≤ s.cfg.pmaBytes) (hlen : countOf (bdWord s 0 .countRx) ≠ 8) :
    setupStage e s = .ok ((), s.stalled sSetupLen) := by
  rw [setupStage, if_neg h]
  refine (bind_ok (bdRead_quiet hq hk)).trans ?_
  rw [if_pos hlen]
  exact stallBoth_quiet hq _

/-- A SETUP of eight bytes is latched, and its dispatch begins (R211). -/
theorem setupStage_packet {e : Ev} (h : ¬ (e.dir = .dirIn ∨ e.setup = false))
    (hk : 2 * bdIndex s.cfg 0 .countRx + 2 ≤ s.cfg.pmaBytes) (hlen : countOf (bdWord s 0 .countRx) = 8) {p : SetupPacket}
    (hp : readPacket s = .ok (p, s)) : setupStage e s = .ok ((), s.latched p) := by
  rw [setupStage, if_neg h]
  refine (bind_ok (bdRead_quiet hq hk)).trans ?_
  rw [if_neg (not_not_intro hlen)]
  exact bind_ok hp

/-- While bytes remain the next chunk is sent (R215). -/
theorem dataInStage_more (hr : s.ctx.remaining ≠ 0) (hsend : chunkWritable s = true) :
    dataInStage s = .ok ((), s.chunkSent.setStat0 .dirIn .valid) := by
  refine (bind_ok (getS_apply s)).trans ?_
  rw [if_pos hr]
  exact (bind_ok (sendChunk_quiet hq hsend)).trans (setStat0_quiet (s := s.chunkSent) hq .dirIn .valid)

/-- With nothing left the status packet is awaited (R215, R218). -/
theorem dataInStage_last (hr : s.ctx.remaining = 0) : dataInStage s = .ok ((), s.statusOutEntered) := by
  refine (bind_ok (getS_apply s)).trans ?_
  rw [if_neg (not_not_intro hr)]
  exact enterStatusOut_quiet hq

section dataOut

variable {rc : Nat} {u : State} (hrecv : receiveChunk s = .ok (rc, u)) (hu : Quiet u)

omit hq

include hrecv hu

/-- With all bytes there, or on a short packet where that ends the stage, Status-In is entered (R220, R222). -/
theorem dataOutStage_ends (h : u.ctx.remaining = 0 ∨ (u.cfg.shortOutEnds = true ∧ rc < u.cfg.mps0)) (hf : StatusInFree u) :
    dataOutStage s = .ok ((), u.statusInEntered) := by
  refine (bind_ok hrecv).trans ((bind_ok (getS_apply u)).trans ?_)
  rw [if_pos h]
  exact enterStatusIn_quiet hu hf

/-- Else the next packet is awaited (R220). -/
theorem dataOutStage_more (h : ¬ (u.ctx.remaining = 0 ∨ (u.cfg.shortOutEnds = true ∧ rc < u.cfg.mps0))) :
    dataOutStage s = .ok ((), u.setStat0 .dirOut .valid) := by
  refine (bind_ok hrecv).trans ((bind_ok (getS_apply u)).trans ?_)
  rw [if_neg h]
  exact setStat0_quiet hu .dirOut .valid

end dataOut

/-- The deferred address is written to `DADDR` and moves the device state, where one is pending (R224, R225). -/
theorem applyIfPending_quiet : applyIfPending s = .ok ((), if s.dev.addrPending = true then
      { s with daddr := daddrOf s.dev.pendingAddr
               dev := { s.dev with addrPending := false
                                   state := addressedState s.dev.pendingAddr s.dev.state } }
    else s) := by
  refine (bind_ok (getS_apply s)).trans ?_
  by_cases h : s.dev.addrPending = true
  · rw [if_pos h, if_pos h]
    refine (bind_ok (getS_apply s)).trans ((bind_ok (regWrite_quiet hq .daddr _)).trans ?_)
    have hlow : ∀ b : Byte, (b.setWidth 16 : Half).extractLsb' 0 8 = b := by
      intro b
      apply BitVec.eq_of_getLsbD_eq
      intro i hi
      simp [hi, show i < 16 by omega]
    simp only [State.writeReg, hlow]
    rfl
  · rw [if_neg h, if_neg h]
    rfl

/-- The completion callback is called, where there is one (R224). -/
theorem runCompletion_quiet (hp : Passive s) : runCompletion s = .ok ((), match s.ctx.completion with
      | some cb => s.told (.callback cb) []
      | none => s) := by
  refine (bind_ok (getS_apply s)).trans ?_
  cases s.ctx.completion with
  | none => rfl
  | some cb => exact notify_quiet hq hp _ _

/-- The end of both status stages: the context is cleared and OUT armed for the next SETUP (R224, R226). -/
theorem clearCtx_arm_quiet :
    (do clearCtx; setStatusAt 0 .dirOut .valid : M Unit) s = .ok ((), s.clearCtx.setStat0 .dirOut .valid) :=
  (bind_ok (clearCtx_apply s)).trans (setStat0_quiet (s := s.clearCtx) hq .dirOut .valid)

end stages

/-- A stage's step is its function in the state in which the callback is no longer due. -/
theorem outcome_stage {s t : State} {m : Ev → M Unit} (h : m s.ev { s with stageDue := false } = .ok ((), t)) :
    outcome (do let e ← takeEvent; m e) s = .next t :=
  outcome_ok ((bind_ok (takeEvent_apply s)).trans h)

/-- Settles O44: the three branches of the stage function. -/
theorem setupStageResult : Obligations.SetupStageResult := by
  intro s hq
  refine ⟨fun hno => outcome_stage (setupStage_not_setup (by exact hq) hno), fun hd hs hk => ?_⟩
  have hyes : ¬ (s.ev.dir = .dirIn ∨ s.ev.setup = false) := by simp [hd, hs]
  refine ⟨fun hlen => outcome_stage (setupStage_length (by exact hq) hyes hk hlen), fun hlen ho hb => ?_⟩
  obtain ⟨p, hp, hpacket⟩ := readPacket_quiet (s := { s with stageDue := false }) hq ho hb
  exact ⟨p, hp, outcome_stage (setupStage_packet (s := { s with stageDue := false }) hq hyes hk hlen hpacket)⟩

/-- Settles O45: the two branches of the stage function. -/
theorem dataInStageResult : Obligations.DataInStageResult := by
  intro s hq
  exact ⟨fun hr hsend => outcome_stage (dataInStage_more (by exact hq) hr
      ((chunkWritable_congr (s := s) (t := { s with stageDue := false }) rfl rfl rfl rfl rfl rfl).trans hsend)),
    fun hr => outcome_stage (dataInStage_last (by exact hq) hr)⟩

/-- Nothing remains after a chunk exactly where the chunk is all that remained. -/
theorem advance_remaining_eq_zero_iff (c : Ctx) {n : Nat} (hn : n ≤ c.remaining.toNat) :
    (c.advance n).remaining = 0 ↔ n = c.remaining.toNat := by
  have hlt := c.remaining.isLt
  have hsub : (c.advance n).remaining.toNat = c.remaining.toNat - n := by
    show (c.remaining - BitVec.ofNat 32 n).toNat = _
    rw [BitVec.toNat_sub, BitVec.toNat_ofNat]
    omega
  rw [← BitVec.toNat_inj, hsub]
  show c.remaining.toNat - n = 0 ↔ _
  omega

/-- Settles O46: nothing is left exactly where the copy is all that remained. -/
theorem dataOutStageResult : Obligations.DataOutStageResult := by
  intro s hq hk rc n u hr
  have hrecv : receiveChunk { s with stageDue := false } = .ok (rc, u) :=
    receiveChunk_quiet (s := { s with stageDue := false }) hq hk rfl hr
  have hzero : u.ctx.remaining = 0 ↔ n = s.ctx.remaining.toNat :=
    advance_remaining_eq_zero_iff s.ctx (Nat.min_le_left _ _)
  refine ⟨fun hend hf => outcome_stage (dataOutStage_ends hrecv hq (hend.imp_left hzero.2)
    ((wordsFree_congr rfl rfl rfl _).trans hf)), fun hmore hlong => outcome_stage (dataOutStage_more hrecv hq ?_)⟩
  rw [hzero]
  rintro (h | ⟨hends, hshort⟩)
  · omega
  · obtain h | h := hlong
    · exact absurd (h.symm.trans hends) Bool.false_ne_true
    · exact Nat.not_lt.2 h hshort

/-- Settles O47: the deferred address, then the callback, then the end that both status stages share. -/
theorem statusInStageResult : Obligations.StatusInStageResult := by
  intro s hq hp a t u
  have happly : applyIfPending t = .ok ((), u) := applyIfPending_quiet (s := t) hq
  have hu : Quiet u ∧ Passive u ∧ u.ctx = s.ctx := by
    show Quiet (if _ then _ else _) ∧ Passive (if _ then _ else _) ∧ (if _ then _ else _ : State).ctx = _
    split <;> exact ⟨hq, hp, rfl⟩
  obtain ⟨hqu, hpu, hctx⟩ := hu
  have hrun := runCompletion_quiet hqu hpu
  rw [hctx] at hrun
  refine ⟨fun hc => outcome_stage ?_, fun cb hc => outcome_stage ?_⟩
  · rw [hc] at hrun
    exact (bind_ok happly).trans ((bind_ok hrun).trans (clearCtx_arm_quiet hqu))
  · rw [hc] at hrun
    exact (bind_ok happly).trans ((bind_ok hrun).trans
      (clearCtx_arm_quiet (s := u.told (.callback cb) []) ((told_window ..).trans hqu)))

/-- Settles O48: `EP_KIND`, then the end that both status stages share. -/
theorem statusOutStageResult : Obligations.StatusOutStageResult := by
  intro s hq
  exact outcome_stage ((bind_ok (clearKindAt_quiet (by exact hq) 0)).trans (clearCtx_arm_quiet (by exact hq)))

end Sys2Proof.Machine

/-! The requests (spec/44_requests.md): what each handler leaves with a driver that only answers and no SIE step inside it. -/

namespace Sys2Proof.Machine

/-! ### Dispatches (R253) -/

/-- Each request instruction is the dispatch of its packet at its point. -/
theorem exec_request {i : Instr} {pt : Option Point} {p : SetupPacket} (h : requestOf i = some (pt, p)) :
    ∃ m, (∀ s, exec i s = outcome (dispatch p pt m) s) ∧ (pt = some .synchFrame → m = synchFrame) := by
  cases i with
  | getStatus | clearFeature | setFeature | setAddress | getDescriptor | setDescriptor | getConfiguration
  | setConfiguration | getInterface | setInterface | stdUndefined | classRequest | vendorRequest | reservedType =>
    cases h
    exact ⟨_, fun _ => rfl, nofun⟩
  | synchFrame =>
    cases h
    exact ⟨_, fun _ => rfl, fun _ => rfl⟩
  | _ => cases h

section dispatch

variable {s : State} {p : SetupPacket}

/-- In the state in which a handler starts, a response may be given. -/
theorem mayRespond_latched (s : State) (p : SetupPacket) : MayRespond (s.latched p) := ⟨rfl, rfl⟩

/-- A dispatch that is stalled before a handler runs (R253, R321). -/
theorem outcome_dispatch_stall (hq : Quiet s) {pt : Option Point}
    (hno : ∀ q, pt = some q → s.cfg.legalPoint s.dev.state q = false) (m : M Unit) :
    outcome (dispatch p pt m) s = .next (s.stallDispatch p (if pt = none then sUndefined else sNotLegal)) :=
  outcome_ok (dispatch_ok (runPoint_stall (s := s.latched p) hq (mayRespond_latched s p) hno m))

/-- A legal request whose handler stalls at once. -/
theorem outcome_dispatch_stallResponse (hq : Quiet s) {q : Point} (hl : s.cfg.legalPoint s.dev.state q = true) (c : Byte)
    {m : M Unit} (hm : m = stallResponse c) : outcome (dispatch p (some q) m) s = .next (s.stallDispatch p c) := by
  rw [hm]
  exact outcome_dispatch hl (stallResponse_quiet (s := s.latched p) hq (mayRespond_latched s p) c)

/-- Settles O49: the request is a dispatch, stalled by the table or by its handler. -/
theorem stalledRequests : Obligations.StalledRequests := by
  intro s i pt p hq hi
  obtain ⟨m, hexec, hsynch⟩ := exec_request hi
  refine ⟨fun hpt => ?_, fun q hpt hl => ?_, fun hpt hl => ?_⟩
  · subst hpt
    exact (hexec s).trans (outcome_dispatch_stall (pt := none) hq nofun m)
  · subst hpt
    refine (hexec s).trans (outcome_dispatch_stall hq (fun q' hq' => ?_) m)
    cases hq'
    exact hl
  · subst hpt
    exact (hexec s).trans (outcome_dispatch_stallResponse hq hl sSynchFrame (hsynch rfl))

end dispatch

/-! ### A handler's state -/

/-- The state of a running handler that has not responded yet, with a driver that only answers. -/
structure Handling (p : SetupPacket) (s : State) : Prop where
  quiet : Quiet s
  passive : Passive s
  respond : MayRespond s
  packet : s.setup = some p

section handling

variable {s : State} {p : SetupPacket}

theorem Handling.latched (hq : Quiet s) (hp : Passive s) (p : SetupPacket) : Handling p (s.latched p) :=
  ⟨hq, hp, ⟨rfl, rfl⟩, rfl⟩

variable (h : Handling p s)

include h

theorem Handling.asked (c : Cap) (as : List Half) : Handling p (s.asked c as) :=
  ⟨(asked_window c as).trans h.quiet, asked_passive h.passive c as,
    ⟨(asked_inDispatch c as).trans h.respond.1, (asked_responded c as).trans h.respond.2⟩,
    (asked_setup c as).trans h.packet⟩

theorem Handling.told (c : Callee) (as : List Half) : Handling p (s.told c as) :=
  ⟨(told_window c as).trans h.quiet, told_passive h.passive c as,
    ⟨(told_inDispatch c as).trans h.respond.1, (told_responded c as).trans h.respond.2⟩,
    (told_setup c as).trans h.packet⟩

omit h

theorem statusInFree_asked (hf : StatusInFree s) (c : Cap) (as : List Half) : StatusInFree (s.asked c as) := by
  rw [StatusInFree, wordsFree_congr (asked_cfg c as) (asked_epr c as) (asked_pma c as), asked_cfg]
  exact hf

theorem statusInFree_told (hf : StatusInFree s) (c : Callee) (as : List Half) : StatusInFree (s.told c as) := by
  rw [StatusInFree, wordsFree_congr (told_cfg c as) (told_epr c as) (told_pma c as), told_cfg]
  exact hf

theorem statusInFree_latched (hf : StatusInFree s) (p : SetupPacket) : StatusInFree (s.latched p) :=
  (wordsFree_congr rfl rfl rfl _).trans hf

end handling

/-- A question to the driver and the branch of its answer. -/
theorem askBool_branch {s t : State} {p : SetupPacket} (h : Handling p s) {c : Cap} {as : List Half} {m k : M Unit} {b : Bool}
    (hb : saysYes s c = b) (hm : (if b then m else k) (s.asked c as) = .ok ((), t)) :
    (do let ok ← askBool c as; if ok then m else k) s = .ok ((), t) := by
  refine (bind_ok (askBool_quiet h.quiet h.passive c as)).trans ?_
  rw [hb]
  exact hm

theorem stallResponse_handling {s : State} {p : SetupPacket} (h : Handling p s) (c : Byte) :
    stallResponse c s = .ok ((), s.answered.stalled c) := stallResponse_quiet h.quiet h.respond c

theorem prepareStatusIn_handling {s : State} {p : SetupPacket} (h : Handling p s) (hf : StatusInFree s) :
    prepareStatusIn s = .ok ((), s.statusIn) := prepareStatusIn_quiet h.quiet h.respond hf

/-! ### SET_ADDRESS, SET_CONFIGURATION and the interfaces (R258, R262 to R265) -/

/-- Settles O50: the address is noted, and Status-In entered. -/
theorem setAddressResult : Obligations.SetAddressResult := by
  intro s r hq hl hf
  refine outcome_dispatch hl ((bind_ok (upd_apply _ _)).trans ?_)
  exact prepareStatusIn_quiet (by exact hq) ⟨rfl, rfl⟩ ((wordsFree_congr rfl rfl rfl _).trans hf)

/-- Settles O51: the driver's answer picks the branch. -/
theorem setConfigurationResult : Obligations.SetConfigurationResult := by
  intro s r hq hp hl u
  have ht : Handling (r.packet 0 9) (s.latched (r.packet 0 9)) := .latched hq hp _
  have hu : Handling (r.packet 0 9) u := ht.asked ..
  refine ⟨fun hyes hf => outcome_dispatch hl (askBool_branch ht hyes ?_),
    fun hno => outcome_dispatch hl (askBool_branch ht hno (stallResponse_handling hu _))⟩
  have hstate : (if valueLow r ≠ 0 then DevState.configured else .addressed)
      = if valueLow r = 0 then .addressed else .configured := ite_not ..
  have hfree : StatusInFree u := statusInFree_asked (statusInFree_latched hf _) ..
  have hv := hu.told (.cap .setConfiguration) [(valueLow r).setWidth 16]
  refine (bind_ok (notify_quiet hu.quiet hu.passive ..)).trans ((bind_ok (upd_apply _ _)).trans ?_)
  rw [hstate]
  exact prepareStatusIn_quiet hv.quiet hv.respond ((wordsFree_congr rfl rfl rfl _).trans (statusInFree_told hfree ..))

/-- Settles O52: the driver's answer picks the branch, and the byte goes through `status_buf`. -/
theorem interfaceResults : Obligations.InterfaceResults := by
  intro s r hq hp num
  refine ⟨?_, ?_, ?_⟩
  · intro hl u v hs
    have ht : Handling (r.packet 0 8) (s.latched (r.packet 0 8)) := .latched hq hp _
    have hu : Handling (r.packet 0 8) u := ht.asked ..
    exact outcome_dispatch hl ((bind_ok (askByte_quiet ht.quiet ht.passive ..)).trans
      (respondStatusBuf_one hu.quiet hu.respond hu.packet hs))
  · intro hl t u v
    have h0 : Handling (r.packet 0 10) (s.latched (r.packet 0 10)) := .latched hq hp _
    have ht : Handling (r.packet 0 10) t := h0.asked ..
    have hu : Handling (r.packet 0 10) u := ht.asked ..
    exact ⟨fun hyes hs => outcome_dispatch hl (askBool_branch h0 hyes
        ((bind_ok (askByte_quiet ht.quiet ht.passive ..)).trans (respondStatusBuf_one hu.quiet hu.respond hu.packet hs))),
      fun hno => outcome_dispatch hl (askBool_branch h0 hno (stallResponse_handling ht _))⟩
  · intro hl t
    have h0 : Handling (r.packet 0 11) (s.latched (r.packet 0 11)) := .latched hq hp _
    have ht : Handling (r.packet 0 11) t := h0.asked ..
    exact ⟨fun hyes hf => outcome_dispatch hl (askBool_branch h0 hyes
        ((bind_ok (notify_quiet ht.quiet ht.passive ..)).trans (prepareStatusIn_handling (ht.told ..)
          (statusInFree_told (statusInFree_asked (statusInFree_latched hf _) ..) ..)))),
      fun hno => outcome_dispatch hl (askBool_branch h0 hno (stallResponse_handling ht _))⟩

end Sys2Proof.Machine

/-! GET_STATUS, the features, GET_DESCRIPTOR and the requests that are the driver's (spec/44_requests.md). -/

namespace Sys2Proof.Machine

/-! ### Endpoint targets (R267) -/

/-- A handler of an endpoint request: its body on a valid target, a stall on an invalid one. -/
def withTarget (r : Req) (k : Byte → Dir → M Unit) : M Unit := do
  let t ← epTarget r
  match t with
  | none => stallResponse sEpInvalid
  | some (n, d) => k n d

section target

variable {s t : State} {p : SetupPacket} (h : Handling p s) {r : Req} {num : Byte} {d : Dir} {k : Byte → Dir → M Unit}
  (hnum : (targetNum r).setWidth 8 = num)

include h hnum

/-- An endpoint above 7 stalls, and the driver is not called. -/
theorem withTarget_range (hn : 8 ≤ num.toNat) : withTarget r k s = .ok ((), s.answered.stalled sEpInvalid) := by
  have htarget : epTarget r s = .ok (none, s) := by
    unfold epTarget
    rw [hnum]
    exact congrFun (if_neg (by omega)) s
  exact (bind_ok htarget).trans (stallResponse_handling h _)

variable (hd : targetDir r = d) (hn : num.toNat < 8)

include hd hn

/-- Below 8 the driver says whether the endpoint is valid. -/
theorem epTarget_asked : epTarget r s = .ok (if saysYes s .isEndpointValid then some (num, d) else none,
    s.asked .isEndpointValid [num.setWidth 16, dirArg d]) := by
  unfold epTarget
  rw [hnum, hd]
  exact (congrFun (if_pos (by omega)) s).trans (bind_ok (askBool_quiet h.quiet h.passive ..))

theorem withTarget_invalid (hno : saysYes s .isEndpointValid = false) : withTarget r k s
    = .ok ((), (s.asked .isEndpointValid [num.setWidth 16, dirArg d]).answered.stalled sEpInvalid) := by
  have htarget := epTarget_asked h hnum hd hn
  rw [hno] at htarget
  exact (bind_ok htarget).trans (stallResponse_handling (h.asked ..) _)

theorem withTarget_valid (hyes : saysYes s .isEndpointValid = true)
    (hk : k num d (s.asked .isEndpointValid [num.setWidth 16, dirArg d]) = .ok ((), t)) :
    withTarget r k s = .ok ((), t) := by
  have htarget := epTarget_asked h hnum hd hn
  rw [hyes] at htarget
  exact (bind_ok htarget).trans hk

end target

/-! ### GET_STATUS (R255) -/

section getStatus

variable {r : Req}

theorem getStatus_device (hr : r.recip = 0) : getStatus r = (do
    let sp ← askBool .isSelfpowered []
    let rw ← askBool .getRemoteWakeup []
    respondStatusBuf (statusBytes sp rw)) := by
  rw [getStatus, if_pos hr]

theorem getStatus_interface (hr : r.recip = 1) : getStatus r = (do
    let ok ← askBool .isInterfaceValid [(ifNumber r).setWidth 16]
    if ok then respondStatusBuf (statusBytes false false) else stallResponse sIfInvalid) := by
  rw [getStatus, if_neg (by rw [hr]; decide), if_pos hr]

theorem getStatus_endpoint (hr : r.recip = 2) : getStatus r = withTarget r (fun n d => do
    let b ← epGetStall n d
    respondStatusBuf (statusBytes b false)) := by
  rw [getStatus, if_neg (by rw [hr]; decide), if_neg (by rw [hr]; decide), if_pos hr]
  rfl

theorem getStatus_other (hr : 2 < r.recip.toNat) : getStatus r = stallResponse sRecipient := by
  have hne : ∀ k : BitVec 5, k.toNat ≤ 2 → r.recip ≠ k := fun k hk he => Nat.not_lt.2 hk (he ▸ hr)
  rw [getStatus, if_neg (hne 0 (by decide)), if_neg (hne 1 (by decide)), if_neg (hne 2 (by decide))]

end getStatus

/-- R97: the two status bytes. -/
theorem statusBytes_eq (b0 b1 : Bool) :
    statusBytes b0 b1 = [(if b0 then 1 else 0) ||| (if b1 then 2 else 0), 0] := by
  cases b0 <;> cases b1 <;> rfl

theorem statusBytes_stall (st : Stat) : statusBytes (st == .stall) false = [if st = .stall then 1 else 0, 0] := by
  cases st <;> rfl

theorem epGetStall_quiet {s : State} (hq : Quiet s) {n : Byte} (hn : n.toNat < 8) (d : Dir) :
    epGetStall n d s = .ok (statOf d s.epr[epOf n hn] == .stall, s) :=
  (bind_ok (epIndex_ok hn s)).trans (bind_ok (regRead_epr_quiet hq _))

/-- A two-byte answer from `status_buf`. -/
theorem respondStatusBytes {s : State} {p : SetupPacket} (h : Handling p s) {b0 b1 : Bool} {b : Byte}
    (hb : statusBytes b0 b1 = [b, 0]) (hs : statusBufSendable s p [b, 0] = true) :
    respondStatusBuf (statusBytes b0 b1) s = .ok ((), s.statusBufSent p [b, 0]) := by
  rw [hb]
  exact respondStatusBuf_two h.quiet h.respond h.packet hs

/-- Settles O53: one equation of the handler for each recipient, and the target as the driver calls it. -/
theorem getStatusResult : Obligations.GetStatusResult := by
  intro s r hq hp hl p t num d
  have ht : Handling p t := .latched hq hp _
  refine ⟨?_, ?_, ?_, fun hr => outcome_dispatch_stallResponse hq hl sRecipient (getStatus_other hr)⟩
  · intro hr u b hs
    have h1 := ht.asked .isSelfpowered []
    refine outcome_dispatch hl ?_
    rw [getStatus_device hr]
    exact (bind_ok (askBool_quiet ht.quiet ht.passive ..)).trans ((bind_ok (askBool_quiet h1.quiet h1.passive ..)).trans
      (respondStatusBytes (h1.asked ..) (statusBytes_eq ..) hs))
  · intro hr u
    refine ⟨fun hyes hs => outcome_dispatch hl ?_, fun hno => outcome_dispatch hl ?_⟩
    · rw [getStatus_interface hr]
      exact askBool_branch ht hyes (respondStatusBytes (ht.asked ..) rfl hs)
    · rw [getStatus_interface hr]
      exact askBool_branch ht hno (stallResponse_handling (ht.asked ..) _)
  · intro hr u
    rw [show (exec (.getStatus r) s) = outcome (dispatch p (some .getStatus) (getStatus r)) s from rfl,
      getStatus_endpoint hr]
    refine ⟨?_, fun hn => outcome_dispatch hl (withTarget_range (num := num) ht rfl hn)⟩
    intro hn b
    refine ⟨fun hyes hs => outcome_dispatch hl (withTarget_valid (num := num) (d := d) ht rfl rfl hn hyes ?_),
      fun hno => outcome_dispatch hl (withTarget_invalid (num := num) (d := d) ht rfl rfl hn hno)⟩
    have hu : Handling p u := ht.asked ..
    refine (bind_ok (epGetStall_quiet hu.quiet hn d)).trans (respondStatusBytes hu ?_ hs)
    have hepr : u.epr[epOf num hn] = s.epr[epOf num hn] := by
      show (t.asked _ _).epr[epOf num hn] = _
      rw [asked_epr]
      rfl
    rw [hepr]
    exact statusBytes_stall _

/-! ### CLEAR_FEATURE and SET_FEATURE (R256, R257) -/

section feature

variable {r : Req}

theorem clearFeature_wakeup (hr : r.recip = 0) (hv : r.wValue = 1) : clearFeature r = (do
    notify (.cap .setRemoteWakeup) [0]
    prepareStatusIn) := by
  rw [clearFeature, if_pos hr, if_pos hv]

theorem setFeature_wakeup (hr : r.recip = 0) (hv : r.wValue = 1) : setFeature r = (do
    notify (.cap .setRemoteWakeup) [1]
    prepareStatusIn) := by
  rw [setFeature, if_pos hr, if_pos hv]

theorem clearFeature_halt (hr : r.recip = 2) (hv : r.wValue = 0) : clearFeature r = withTarget r (fun n d => do
    epClearStall n d
    notify (.cap .clearStall) [n.setWidth 16, dirArg d]
    prepareStatusIn) := by
  rw [clearFeature, if_neg (by rw [hr]; decide), if_pos hr, if_pos hv]
  rfl

theorem setFeature_halt (hr : r.recip = 2) (hv : r.wValue = 0) : setFeature r = withTarget r (fun n d => do
    epSetStall n d
    prepareStatusIn) := by
  rw [setFeature, if_neg (by rw [hr]; decide), if_pos hr, if_pos hv]
  rfl

theorem feature_other (h : (r.recip = 0 ∧ r.wValue ≠ 1) ∨ (r.recip = 2 ∧ r.wValue ≠ 0)) :
    clearFeature r = stallResponse sFeature ∧ setFeature r = stallResponse sFeature := by
  rw [clearFeature, setFeature]
  obtain ⟨hr, hv⟩ | ⟨hr, hv⟩ := h
  · rw [if_pos hr, if_neg hv, if_pos hr, if_neg hv]
    exact ⟨rfl, rfl⟩
  · have h0 : r.recip ≠ 0 := by rw [hr]; decide
    rw [if_neg h0, if_pos hr, if_neg hv, if_neg h0, if_pos hr, if_neg hv]
    exact ⟨rfl, rfl⟩

theorem feature_recipient (h0 : r.recip ≠ 0) (h2 : r.recip ≠ 2) :
    clearFeature r = stallResponse sRecipient ∧ setFeature r = stallResponse sRecipient := by
  rw [clearFeature, setFeature, if_neg h0, if_neg h2, if_neg h0, if_neg h2]
  exact ⟨rfl, rfl⟩

end feature

section halt

variable {s : State} {p : SetupPacket} (h : Handling p s) {n : Byte} (hn : n.toNat < 8) {d : Dir} {r : Half}
  (hr : s.epr[epOf n hn] = r)

include h hr

theorem epClearStall_handling : epClearStall n d s = .ok ((), s.setEpr (epOf n hn) (unstalledDir r d)) := by
  subst hr
  exact (bind_ok (epIndex_ok hn s)).trans (clearStall_quiet h.quiet _ d)

theorem epSetStall_handling : epSetStall n d s = .ok ((), s.setEpr (epOf n hn) (stalledDir r d)) := by
  subst hr
  exact (bind_ok (epIndex_ok hn s)).trans (setStallAt_quiet h.quiet _ d)

end halt

/-- A register write leaves a handler's state as it was else. -/
theorem Handling.setEpr {s : State} {p : SetupPacket} (h : Handling p s) (e : Fin 8) (r : Half) :
    Handling p (s.setEpr e r) := ⟨h.quiet, h.passive, h.respond, h.packet⟩

/-- A descriptor word free after a register write is free so after the driver's answer as well. -/
theorem statusInFree_asked_setEpr {s : State} {c : Cap} {as : List Half} {e : Fin 8} {r : Half} (p : SetupPacket)
    (hf : StatusInFree (s.setEpr e r)) : StatusInFree (((s.latched p).asked c as).setEpr e r) := by
  have hepr : (((s.latched p).asked c as).setEpr e r).epr = (s.setEpr e r).epr := by
    rw [State.setEpr_epr, asked_epr]
    rfl
  refine (wordsFree_congr (s := s.setEpr e r) (t := ((s.latched p).asked c as).setEpr e r) (asked_cfg c as) hepr
    (asked_pma c as) _).trans ?_
  rw [State.setEpr_cfg, asked_cfg]
  exact hf

/-- Settles O54: one equation of each handler for each recipient and feature, and the target as the driver calls it. -/
theorem featureResults : Obligations.FeatureResults := by
  intro s r hq hp clears sets p q num d ask
  have h0 : ∀ k, Handling k (s.latched k) := .latched hq hp
  have h1 : ∀ k, Handling k (ask k) := fun k => (h0 k).asked ..
  have hepr : ∀ k (hn : num.toNat < 8), (ask k).epr[epOf num hn] = s.epr[epOf num hn] := fun k hn => by
    show ((s.latched k).asked _ _).epr[epOf num hn] = _
    rw [asked_epr]
    rfl
  have hclear : exec (.clearFeature r) s = outcome (dispatch p (some .clearFeature) (clearFeature r)) s := rfl
  have hset : exec (.setFeature r) s = outcome (dispatch q (some .setFeature) (setFeature r)) s := rfl
  rw [hclear, hset]
  refine ⟨fun hr hv hf => ?_, fun hr hv => ?_, fun hno => ?_, fun hr0 hr2 => ?_⟩
  · rw [clearFeature_wakeup hr hv, setFeature_wakeup hr hv]
    exact ⟨fun hl => outcome_dispatch hl ((bind_ok (notify_quiet (h0 p).quiet (h0 p).passive ..)).trans
        (prepareStatusIn_handling ((h0 p).told ..) (statusInFree_told (statusInFree_latched hf p) ..))),
      fun hl => outcome_dispatch hl ((bind_ok (notify_quiet (h0 q).quiet (h0 q).passive ..)).trans
        (prepareStatusIn_handling ((h0 q).told ..) (statusInFree_told (statusInFree_latched hf q) ..)))⟩
  · rw [clearFeature_halt hr hv, setFeature_halt hr hv]
    refine ⟨fun hn => ⟨fun hyes => ⟨fun hl hf => outcome_dispatch hl
        (withTarget_valid (num := num) (d := d) (h0 p) rfl rfl hn hyes ?_),
      fun hl hf => outcome_dispatch hl (withTarget_valid (num := num) (d := d) (h0 q) rfl rfl hn hyes ?_)⟩,
      fun hno => ⟨fun hl => outcome_dispatch hl (withTarget_invalid (num := num) (d := d) (h0 p) rfl rfl hn hno),
        fun hl => outcome_dispatch hl (withTarget_invalid (num := num) (d := d) (h0 q) rfl rfl hn hno)⟩⟩,
      fun hn => ⟨fun hl => outcome_dispatch hl (withTarget_range (num := num) (h0 p) rfl hn),
        fun hl => outcome_dispatch hl (withTarget_range (num := num) (h0 q) rfl hn)⟩⟩
    · have h2 := (h1 p).setEpr (epOf num hn) (unstalledDir s.epr[epOf num hn] d)
      refine (bind_ok (epClearStall_handling (h1 p) hn (hepr p hn))).trans ?_
      exact (bind_ok (notify_quiet h2.quiet h2.passive ..)).trans
        (prepareStatusIn_handling (h2.told ..) (statusInFree_told (statusInFree_asked_setEpr p hf) ..))
    · have h2 := (h1 q).setEpr (epOf num hn) (stalledDir s.epr[epOf num hn] d)
      exact (bind_ok (epSetStall_handling (h1 q) hn (hepr q hn))).trans
        (prepareStatusIn_handling h2 (statusInFree_asked_setEpr q hf))
  · obtain ⟨hc, hs⟩ := feature_other hno
    exact ⟨fun hl => outcome_dispatch_stallResponse hq hl _ hc, fun hl => outcome_dispatch_stallResponse hq hl _ hs⟩
  · obtain ⟨hc, hs⟩ := feature_recipient hr0 hr2
    exact ⟨fun hl => outcome_dispatch_stallResponse hq hl _ hc, fun hl => outcome_dispatch_stallResponse hq hl _ hs⟩

/-! ### GET_DESCRIPTOR (R259, R260) -/

/-- A type that is not served is not asked for. -/
theorem askDescriptor_none {r : Req} (h : descriptorCall r = none) (s : State) : askDescriptor r s = .ok (none, s) := by
  unfold descriptorCall at h
  split_ifs at h with h1 h2 h3 h4
  rw [askDescriptor, if_neg h1, if_neg h2, if_neg h3, if_neg h4]
  rfl

/-- The driver is asked for the descriptor of a served type. -/
theorem askDescriptor_some {r : Req} {c : Cap} {as : List Half} (h : descriptorCall r = some (c, as)) {s : State}
    (hq : Quiet s) (hp : Passive s) : askDescriptor r s = .ok (some (answerOf s c), s.asked c as) := by
  unfold descriptorCall at h
  split_ifs at h with h1 h2 h3 h4
  all_goals cases h
  · rw [askDescriptor, if_pos h1]
    exact bind_ok (ask_quiet hq hp ..)
  · rw [askDescriptor, if_neg h1, if_pos h2]
    exact bind_ok (ask_quiet hq hp ..)
  · rw [askDescriptor, if_neg h1, if_neg h2, if_pos h3]
    exact bind_ok (ask_quiet hq hp ..)
  · rw [askDescriptor, if_neg h1, if_neg h2, if_neg h3, if_pos h4]
    exact bind_ok (ask_quiet hq hp ..)

/-- The descriptor's own length is read from its own bytes (R96). -/
theorem descLen_quiet {s : State} (hq : Quiet s) {ty : Byte} {a : Addr} (hm : descriptorMapped s ty a = true) :
    descLen ty a s = .ok (descriptorLength s ty a, s) := by
  rw [descLen, descriptorLength]
  rw [descriptorMapped] at hm
  by_cases h : ty = 1 ∨ ty = 3
  · rw [if_pos h] at hm ⊢
    rw [if_pos h]
    exact bind_ok (memRead_quiet hq hm)
  · rw [if_neg h, Bool.and_eq_true_iff] at hm
    rw [if_neg h, if_neg h]
    exact (bind_ok (memRead_quiet hq hm.1)).trans (bind_ok (memRead_quiet hq hm.2))

/-- Settles O55: a served type is asked for, and its length read from its own bytes. -/
theorem getDescriptorResult : Obligations.GetDescriptorResult := by
  intro s r hq hp hl p
  have ht : Handling p (s.latched p) := .latched hq hp _
  refine ⟨fun hno => outcome_dispatch hl ((bind_ok (askDescriptor_none hno _)).trans (stallResponse_handling ht _)), ?_⟩
  intro c as hc u a len n
  have hu : Handling p u := ht.asked ..
  have hask : askDescriptor r (s.latched p) = .ok (some (answerOf s c), u) := askDescriptor_some hc ht.quiet ht.passive
  refine ⟨fun hz => outcome_dispatch hl ((bind_ok hask).trans ?_), fun hnz hm hs =>
    outcome_dispatch hl ((bind_ok hask).trans ?_)⟩
  · exact (congrFun (if_pos hz) u).trans (stallResponse_handling hu _)
  · have hmap : descriptorMapped u (valueHigh r) a = true := by
      show descriptorMapped ((s.latched p).asked c as) _ _ = true
      rw [descriptorMapped, asked_cfg]
      exact hm
    have hlen : descriptorLength u (valueHigh r) a = len := by
      show descriptorLength ((s.latched p).asked c as) _ _ = _
      rw [descriptorLength, asked_cpu]
      rfl
    refine (congrFun (if_neg hnz) u).trans ((bind_ok (descLen_quiet hu.quiet hmap)).trans
      ((bind_ok (readSetup_ok hu.packet hu.respond.1)).trans ?_))
    have hn : (if len.toNat ≤ p.wLength.toNat then len else p.wLength).setWidth 32 = n := apply_ite (BitVec.setWidth 32) ..
    rw [hlen, hn]
    exact prepareDataIn_quiet hu.quiet hu.respond hu.packet hs

/-! ### Requests that are the driver's (R250, R254, R261) -/

/-- A request that is handed to the driver: SET_DESCRIPTOR always, a class or vendor request where the driver has its
callback. -/
theorem exec_forward {i : Instr} {c : Cap} {pt : Point} {p : SetupPacket} (hi : requestOf i = some (some pt, p))
    (hc : (pt = .setDescriptor ∧ c = .setDescriptor) ∨ (pt = .classPoint ∧ c = .classRequest)
      ∨ (pt = .vendorPoint ∧ c = .vendorRequest)) :
    ∃ m, (∀ s, exec i s = outcome (dispatch p (some pt) m) s)
      ∧ (∀ s, pt = .setDescriptor ∨ hasCap s.driver c = true → m s = notify (.cap c) (packetArgs p) s)
      ∧ ∀ s, pt ≠ .setDescriptor → hasCap s.driver c = false → m s = .error (.halt { s with fatal := some .nullDriverCb }) := by
  have hforward : ∀ (pt : Point) (c : Cap), pt ≠ .setDescriptor →
      (∀ s, pt = .setDescriptor ∨ hasCap s.driver c = true → forward c p s = notify (.cap c) (packetArgs p) s)
      ∧ ∀ s, pt ≠ .setDescriptor → hasCap s.driver c = false →
        forward c p s = .error (.halt { s with fatal := some .nullDriverCb }) := by
    intro pt c hpt
    refine ⟨fun s h => (bind_ok (getS_apply s)).trans ?_, fun s _ h => (bind_ok (getS_apply s)).trans ?_⟩
    · rw [if_pos (h.resolve_left hpt)]
    · rw [if_neg (by rw [h]; exact Bool.false_ne_true)]
      rfl
  obtain ⟨rfl, rfl⟩ | ⟨rfl, rfl⟩ | ⟨rfl, rfl⟩ := hc
  · cases i with
    | setDescriptor r =>
      cases hi
      exact ⟨_, fun _ => rfl, fun _ _ => rfl, fun _ h => absurd rfl h⟩
    | _ => cases hi
  · cases i with
    | classRequest b r =>
      cases hi
      exact ⟨_, fun _ => rfl, hforward _ _ nofun⟩
    | _ => cases hi
  · cases i with
    | vendorRequest b r =>
      cases hi
      exact ⟨_, fun _ => rfl, hforward _ _ nofun⟩
    | _ => cases hi

section response

variable {s t : State} (hq : Quiet s) {c : Callee} {as : List Half}

include hq

/-- A call that acts: it is recorded, its answer taken, and its actions run (R250). -/
theorem notify_acts {d : DrvAnswer} {q : List DrvAnswer} (ht : takeAnswer c s.answers = some (d, q))
    (hacts : drvActs c d.acts (s.told c as) = .ok ((), t)) : notify c as s = .ok ((), t) := by
  have htold : s.told c as = { s with calls := { callee := c, args := as } :: s.calls, answers := q } := by
    rw [State.told, ht]
  rw [htold] at hacts
  refine bind_ok (a := some d) ((bind_ok (tick_quiet hq)).trans ((bind_ok (getS_apply s)).trans ?_))
  rw [ht]
  exact (bind_ok (upd_apply _ s)).trans (bind_ok hacts)

omit hq

/-- A single action that is a response, by a call that may give one (R250 (c)). -/
theorem drvActs_response (hc : mayRespond c = true) {i : Instr} (hi : drvOp i = .response)
    (hrun : drvRun i s = .ok ((), t)) : drvActs c [.call i] s = .ok ((), t) := by
  refine bind_ok (a := ()) ((bind_ok (getS_apply s)).trans ?_)
  rw [hi]
  refine (congrFun (if_neg ?_) s).trans hrun
  rw [hc, Bool.not_true, Bool.and_false]
  exact Bool.false_ne_true

end response

/-- Settles O56: the handler is the call, and the call's one action is the response. -/
theorem forwardResults : Obligations.ForwardResults := by
  intro s i c pt p hq hi hl hc u
  obtain ⟨m, hexec, hcall, hnull⟩ := exec_forward hi hc
  have hmay : mayRespond (.cap c) = true := by
    obtain ⟨-, rfl⟩ | ⟨-, rfl⟩ | ⟨-, rfl⟩ := hc <;> rfl
  have hqu : Quiet u := (told_window ..).trans hq
  have hdu : MayRespond u := ⟨told_inDispatch .., told_responded ..⟩
  have hpu : u.setup = some p := told_setup ..
  have hfree : StatusInFree s → StatusInFree u := fun hf => statusInFree_told (statusInFree_latched hf p) ..
  refine ⟨fun hpt hno => (hexec s).trans ?_, fun hyes => ⟨fun hp => (hexec s).trans (outcome_dispatch hl ?_),
    fun d q ht => ?_⟩⟩
  · refine outcome_halt ((bind_ok (upd_apply _ s)).trans (bind_error ?_))
    exact (runPoint_legal (s := s.latched p) hl m).trans (hnull _ hpt hno)
  · exact (hcall (s.latched p) hyes).trans (notify_quiet (by exact hq) (by exact hp) ..)
  · have hresp : ∀ {j : Instr} {t : State}, drvOp j = .response → d.acts = [.call j] → drvRun j u = .ok ((), t) →
        exec i s = .next t.endDispatch := fun hj ha hrun =>
      (hexec s).trans (outcome_dispatch hl ((hcall (s.latched p) hyes).trans
        (notify_acts (s := s.latched p) hq ht (by rw [ha]; exact drvActs_response hmay hj hrun))))
    exact ⟨fun ha hf => hresp rfl ha (prepareStatusIn_quiet hqu hdu (hfree hf)),
      fun b n ha hs => hresp rfl ha (prepareDataIn_quiet hqu hdu hpu hs),
      fun b f ha hf => hresp rfl ha (prepareDataOut_zero_quiet hqu hdu (hfree hf)),
      fun b n f ha hn => hresp rfl ha (prepareDataOut_quiet hqu hdu hn),
      fun k ha => hresp rfl ha (stallResponse_quiet hqu hdu sDriver)⟩

end Sys2Proof.Machine

/-! The event handlers (spec/60_exceptions.md section 3): completions, and the bus events. -/

namespace Sys2Proof.Machine

/-! ### Completions (R331, R332) -/

section completion

variable {s : State} (hq : Quiet s) {d : Dir}

theorem lookupCallback_some {n : Fin 8} {cb : CbId} (h : s.ept[n].callback d = some cb) :
    lookupCallback n d s = .ok (cb, s) := by
  refine (bind_ok (getS_apply s)).trans ?_
  rw [h]
  rfl

theorem lookupCallback_none {n : Fin 8} (h : s.ept[n].callback d = none) :
    lookupCallback n d s = .error (.halt { s with fatal := some .noHandler }) := by
  refine (bind_ok (getS_apply s)).trans ?_
  rw [h]
  rfl

/-- The forced Setup: a SETUP on OUT clears the context (R331). -/
theorem forceSetup_apply (d : Dir) (r : Half) (s : State) :
    forceSetup d r s = .ok ((), if d = .dirOut ∧ setupOf r = true then s.clearCtx else s) := by
  rw [forceSetup]
  by_cases h : d = .dirOut ∧ setupOf r = true
  · rw [if_pos h, if_pos h]
    rfl
  · rw [if_neg h, if_neg h]
    rfl

include hq

/-- On endpoint 0 the flag is cleared and a SETUP clears the context, before the callback is looked up (R331). -/
theorem ctrEp0_lookup {v : State} (hv : v = if d = .dirOut ∧ setupOf s.epr[0] = true
      then (s.setEpr 0 (s.epr[0] &&& ~~~ ctrBit d)).clearCtx else s.setEpr 0 (s.epr[0] &&& ~~~ ctrBit d)) :
    ctrEp0 d s = (do
      let _ ← lookupCallback 0 d
      upd fun t => { t with stageDue := true, ev := { dir := d, setup := setupOf s.epr[0] } } : M Unit) v := by
  subst hv
  exact (bind_ok (clearCompleteAt_quiet hq 0 d)).trans (bind_ok (forceSetup_apply ..))

/-- On another endpoint the flag is cleared, and then its callback is called (R331). -/
theorem ctrEpn_lookup {n : BitVec 4} (hn : n.toNat < 8) : ctrEpn n d s = (do
      let cb ← lookupCallback ⟨n.toNat, hn⟩ d
      notify (.callback cb) [] : M Unit) (s.setEpr ⟨n.toNat, hn⟩ (s.epr[n.toNat] &&& ~~~ ctrBit d)) := by
  unfold ctrEpn
  rw [dif_pos hn]
  exact bind_ok (clearCompleteAt_quiet hq ⟨n.toNat, hn⟩ d)

end completion

/-- Settles O57: the flag, the forced Setup, and then the lookup of the callback. -/
theorem ctrResults : Obligations.CtrResults := by
  intro s d hq hp t
  refine ⟨?_, fun n i hi => ?_⟩
  · intro i hi u v
    have hexec : exec i s = outcome (ctrEp0 d) t := by subst hi; cases d <;> rfl
    have hv : v.ept = s.ept := by
      show (if _ then _ else _ : State).ept = _
      split <;> rfl
    have hlookup := ctrEp0_lookup (s := t) hq (v := v) rfl
    rw [hexec]
    refine ⟨fun cb hcb => outcome_ok (hlookup.trans (bind_ok (lookupCallback_some (n := 0) (d := d) (cb := cb) ?_))),
      fun hcb => outcome_halt (hlookup.trans (bind_error (lookupCallback_none ?_)))⟩
    · rw [hv]
      exact hcb
    · rw [hv]
      exact hcb
  · have hexec : exec i s = outcome (ctrEpn n d) t := by subst hi; cases d <;> rfl
    rw [hexec]
    refine ⟨?_, fun hn => ?_⟩
    · intro hn u
      refine ⟨fun cb hcb => outcome_ok ?_, fun hcb => outcome_halt ?_⟩
      · exact (ctrEpn_lookup (s := t) hq hn).trans ((bind_ok (lookupCallback_some (s := u) hcb)).trans (notify_quiet (s := u) hq hp ..))
      · exact (ctrEpn_lookup (s := t) hq hn).trans (bind_error (lookupCallback_none (s := u) hcb))
    · exact outcome_fault (congrFun (dif_neg (Nat.not_lt.2 hn)) t)

/-! ### The bus reset (R334) -/

/-- Where the SIE owns no word, words inside the packet memory are free. -/
theorem wordsFree_of_disabled {t : State}
    (h : ∀ n : Fin 8, statOf .dirIn t.epr[n] = .disabled ∧ statOf .dirOut t.epr[n] = .disabled) (ws : List (Nat × Half))
    (hk : ∀ w ∈ ws, 2 * w.1 + 2 ≤ t.cfg.pmaBytes) : wordsFree t ws = true := by
  induction ws generalizing t with
  | nil => rfl
  | cons w ws ih =>
    obtain ⟨k, v⟩ := w
    exact wordsFree_cons.2 ⟨hk _ List.mem_cons_self, sieOwns_disabled h k,
      ih (t := t.putWords [(k, v)]) h fun w hw => hk w (List.mem_cons_of_mem _ hw)⟩

/-- Every endpoint unregistered: `SETUP` alone left in the registers, the table cleared (R197, R334). -/
def State.unregisteredAll (s : State) : State :=
  { s with epr := s.epr.map (· &&& 0x0800), ept := Vector.replicate 8 EptEntry.unregistered }

theorem unregisterAll_quiet {s : State} (hq : Quiet s) : unregisterFrom 0 8 s = .ok ((), s.unregisteredAll) := by
  obtain ⟨t, hrun, ht, hepr, hept⟩ := unregisterFrom_quiet hq 8 0 (Nat.le_refl 8)
  have hmap : t.epr = s.epr.map (· &&& 0x0800) := by
    apply Vector.ext
    intro i hi
    have h := hepr ⟨i, hi⟩
    rw [if_pos ⟨Nat.zero_le _, by simpa using hi⟩] at h
    rw [Vector.getElem_map]
    exact h
  have hclear : t.ept = Vector.replicate 8 EptEntry.unregistered := by
    apply Vector.ext
    intro i hi
    have h := hept ⟨i, hi⟩
    rw [if_pos ⟨Nat.zero_le _, by simpa using hi⟩] at h
    rw [Vector.getElem_replicate]
    exact h
  rw [hrun, ht, hmap, hclear]
  rfl

/-- A register that holds `SETUP` alone has both directions disabled. -/
theorem statOf_and_setup (d : Dir) (r : Half) : statOf d (r &&& 0x0800) = .disabled := by
  have hin : (0x0800 : Half).extractLsb' 4 2 = 0#2 := by decide
  have hout : (0x0800 : Half).extractLsb' 12 2 = 0#2 := by decide
  cases d with
  | dirIn => rw [statOf, BitVec.extractLsb'_and, hin, BitVec.and_zero]; rfl
  | dirOut => rw [statOf, BitVec.extractLsb'_and, hout, BitVec.and_zero]; rfl

/-- The register of the control endpoint, from one that holds `SETUP` alone (R162). -/
theorem configured_control (r : Half) :
    configured (r &&& 0x0800) .control false 0 .valid .nak = (r &&& 0x0800) ||| 0x3220 := by
  rw [configured, BitVec.and_assoc, BitVec.or_assoc]
  rfl

/-- The encoded size of the EP0 OUT buffer is its size, for each legal `MPS0` (R21, R46). -/
theorem rxSize_mps0 {m : Nat} (h : ((m = 8 ∨ m = 16) ∨ m = 32) ∨ m = 64) :
    rxSize (encodeRx (BitVec.ofNat 16 m)) = m ∧ (BitVec.ofNat 16 m).toNat = m := by
  obtain ((rfl | rfl) | rfl) | rfl := h <;> decide

/-- Legal parameters let endpoint 0 be registered (R21, R190). -/
theorem legal_ep0 {c : Params} (h : c.legal = true) :
    inWindowOk c c.ep0TxOff = true ∧ outWindowOk c c.ep0RxOff (BitVec.ofNat 16 c.mps0) = true
      ∧ ∀ f, 2 * bdIndex c 0 f + 2 ≤ c.pmaBytes := by
  simp only [Params.legal, Bool.and_eq_true, Bool.or_eq_true, decide_eq_true_eq] at h
  obtain ⟨⟨⟨⟨⟨⟨⟨⟨⟨⟨⟨⟨⟨⟨⟨_, _⟩, _⟩, hmps⟩, _⟩, hrx⟩, htx⟩, hbt⟩, hrxb⟩, htxb⟩, _⟩, _⟩, _⟩, _⟩, _⟩, _⟩ := h
  obtain ⟨hsize, hnat⟩ := rxSize_mps0 hmps
  refine ⟨inWindowOk_iff.2 ⟨htx, by omega⟩, outWindowOk_iff.2 ⟨hrx, by omega, by omega⟩, fun f => ?_⟩
  have hf : f.index ≤ 3 := by cases f <;> decide
  rw [bdIndex]
  have : (0 : Fin 8).val = 0 := rfl
  omega

/-- The table's entry of endpoint 0 after a bus reset (R29, R334). -/
def ep0Entry (c : Params) : EptEntry :=
  { mode := .single, ty := .control, txAddr := c.ep0TxOff, rxAddr := c.ep0RxOff, rxCount := BitVec.ofNat 16 c.mps0,
    inCb := some controlFsm, outCb := some controlFsm }

/-- The descriptor words of endpoint 0 after a bus reset (R334). -/
def ep0Words (c : Params) : List (Nat × Half) :=
  bdWords c 0 [(.addrTx, c.ep0TxOff), (.countTx, 0), (.addrRx, c.ep0RxOff), (.countRx, encodeRx (BitVec.ofNat 16 c.mps0))]

/-- With `SETUP` alone in every register and legal parameters, endpoint 0 is registered as the control endpoint (R191, R334). -/
theorem registerEp0_quiet {s : State} (hq : Quiet s) (hl : s.cfg.legal = true) {x : Fin 8 → Half}
    (hx : ∀ n : Fin 8, s.epr[n] = x n &&& 0x0800) :
    registerEndpoint 0 .control s.cfg.ep0TxOff s.cfg.ep0RxOff (BitVec.ofNat 16 s.cfg.mps0) (some controlFsm)
        (some controlFsm) s
      = .ok ((), ((s.putWords (ep0Words s.cfg)).setEpr 0 ((x 0 &&& 0x0800) ||| 0x3220)).setEpt 0 (ep0Entry s.cfg)) := by
  obtain ⟨hin, hout, hbd⟩ := legal_ep0 hl
  have hfree : wordsFree s (ep0Words s.cfg) = true := by
    refine wordsFree_of_disabled (fun n => ?_) _ fun w hw => ?_
    · rw [hx n]
      exact ⟨statOf_and_setup .., statOf_and_setup ..⟩
    · obtain ⟨f, -, rfl⟩ := List.mem_map.1 hw
      exact hbd f.1
  have hreg : configured s.epr[(0 : Fin 8)] .control false 0 .valid .nak = (x 0 &&& 0x0800) ||| 0x3220 := by
    rw [hx 0]
    exact configured_control _
  rw [← hreg]
  exact registration_ok (n := 0) (by decide)
    (regCheck_none (by decide) (by decide) (Bool.and_eq_true_iff.2 ⟨hin, hout⟩) rfl)
    (epConfigure_quiet hq (n := 0) (by decide) rfl hfree)

/-- The last writes of the bus-reset handler: `DADDR`, the context, the device state (R334). -/
theorem busResetTail_quiet {s : State} (hq : Quiet s) :
    (do regWrite .daddr 0x0080
        clearCtx
        upd fun t => { t with dev := { t.dev with state := .default, previous := .default } } : M Unit) s
      = .ok ((), { s with
          daddr := 0x80, ctx := Ctx.cleared
          dev := { s.dev with state := .default, previous := .default, addrPending := false } }) :=
  (bind_ok (regWrite_quiet hq .daddr 0x0080)).trans (bind_ok (clearCtx_apply _))

/-- What the bus-reset handler leaves (R334). -/
def State.busReset (s : State) : State :=
  { s with
    epr := (s.epr.map (· &&& 0x0800)).set 0 ((s.epr[0] &&& 0x0800) ||| 0x3220)
    ept := (Vector.replicate 8 EptEntry.unregistered).set 0 (ep0Entry s.cfg)
    pma := s.pma.writeWords (ep0Words s.cfg)
    daddr := 0x80
    ctx := Ctx.cleared
    dev := { s.dev with state := .default, previous := .default, addrPending := false } }

/-- The bus-reset handler unregisters every endpoint and registers endpoint 0 (R334). -/
theorem busResetHandler_quiet {s : State} (hq : Quiet s) (hl : s.cfg.legal = true) :
    busResetHandler s = .ok ((), s.busReset) := by
  have hreg := registerEp0_quiet (s := s.unregisteredAll) hq hl (x := fun n => s.epr[n]) (fun n => Vector.getElem_map ..)
  refine (bind_ok (unregisterAll_quiet hq)).trans ((bind_ok (getS_apply s.unregisteredAll)).trans ((bind_ok hreg).trans
    ((busResetTail_quiet ?_).trans ?_)))
  · exact hq
  · rfl

/-! ### Suspend, wakeup, start of frame (R335 to R337) -/

/-- An event that leaves `t` and calls a hook notes its flag, whether the hook is null or not (R330). -/
theorem outcome_hook {s t : State} (hq : Quiet t) (hp : Passive t) {c : Cap} {b : Half} {m : M Unit} (hm : m s = hook c t) :
    outcome (do m; handled b) s = .next { (if hasCap t.driver c then t.told (.cap c) [] else t) with
      isrHandled := t.isrHandled ||| b } := by
  refine outcome_ok ((bind_ok (hm.trans (hook_quiet hq hp c))).trans ?_)
  obtain ⟨cs, as, htold⟩ := told_eq (s := t) (.cap c) []
  by_cases h : hasCap t.driver c = true
  · rw [if_pos h, htold]
    rfl
  · rw [if_neg h]
    rfl

/-- Settles O58: endpoint 0 can be registered since no direction is left enabled; the others call a hook at most. -/
theorem busEventResults : Obligations.BusEventResults := by
  intro s hq
  refine ⟨?_, fun hp => ⟨?_, ?_, ?_⟩⟩
  · intro hl m
    exact outcome_ok ((bind_ok (upd_apply _ s)).trans (bind_ok
      (busResetHandler_quiet (s := { s with isrPending := s.isrPending &&& 0xFBFF }) hq hl)))
  · intro t
    have hdev : (if s.dev.state = .suspended then { s with isrPending := s.isrPending &&& 0xF7FF }
        else { s with isrPending := s.isrPending &&& 0xF7FF
                      dev := { s.dev with previous := s.dev.state, state := .suspended } }) = t :=
      (apply_ite (fun v : Dev => { s with isrPending := s.isrPending &&& 0xF7FF, dev := v }) _ _ _).symm
    exact outcome_hook (s := { s with isrPending := s.isrPending &&& 0xF7FF }) (t := t) hq hp
      ((bind_ok (upd_apply _ _)).trans (congrArg (hook .suspend) hdev))
  · intro t
    have hdev : (if s.dev.state = .suspended then
          { s with isrPending := s.isrPending &&& 0xEFFF }.setDev s.dev.previous
        else { s with isrPending := s.isrPending &&& 0xEFFF }) = t :=
      (apply_ite (fun v : Dev => { s with isrPending := s.isrPending &&& 0xEFFF, dev := v }) _ _ _).symm
    exact outcome_hook (s := { s with isrPending := s.isrPending &&& 0xEFFF }) (t := t) hq hp
      ((bind_ok (upd_apply _ _)).trans (congrArg (hook .wakeup) hdev))
  · intro t
    exact outcome_hook (s := t) (t := t) hq hp rfl

end Sys2Proof.Machine

/-! The host's transactions (spec/45_sie_host.md): the endpoint that a token is for, and what each transaction answers and
changes. -/

namespace Sys2Proof.Machine

/-! ### The endpoint that a token is for (R291) -/

theorem firstEp_eq_none {p : Fin 8 → Bool} (h : ∀ n, p n = false) : firstEp p = none := by
  simp [firstEp, h]

theorem firstEp_eq_some {p : Fin 8 → Bool} {n : Fin 8} (hn : p n = true) (hk : ∀ k, k < n → p k = false) :
    firstEp p = some n := by
  unfold firstEp
  fin_cases n <;> simp_all [Fin.forall_fin_succ]

section sie

variable {s : State} {ad : BitVec 7} {e : BitVec 4} {d : List Byte} {n : Fin 8}

/-- Endpoint `n` answers tokens for `e`: its address is `e`, and some direction of it is not disabled. -/
def answersEa (s : State) (e : BitVec 4) (n : Fin 8) : Bool :=
  eaOf s.epr[n] == e && !(statOf .dirOut s.epr[n] == .disabled && statOf .dirIn s.epr[n] == .disabled)

theorem answersEa_eq_false_iff : answersEa s e n = false ↔
    (eaOf s.epr[n] = e → statOf .dirOut s.epr[n] = .disabled ∧ statOf .dirIn s.epr[n] = .disabled) := by
  rw [answersEa, Bool.and_eq_false_imp, beq_iff_eq, Bool.not_eq_false', Bool.and_eq_true_iff, beq_iff_eq, beq_iff_eq]

theorem answersEa_iff : answersEa s e n = true ↔
    eaOf s.epr[n] = e ∧ (statOf .dirOut s.epr[n] ≠ .disabled ∨ statOf .dirIn s.epr[n] ≠ .disabled) := by
  rw [← Bool.not_eq_false, answersEa_eq_false_iff, Classical.not_imp, not_and_or]

theorem sieMatch_eq_none (h : s.daddr.getLsbD 7 = false ∨ s.daddr.extractLsb' 0 7 ≠ ad ∨ (∀ n : Fin 8, eaOf s.epr[n] = e →
    statOf .dirOut s.epr[n] = .disabled ∧ statOf .dirIn s.epr[n] = .disabled)) : sieMatch s ad e = none := by
  unfold sieMatch
  by_cases haddr : s.daddr.getLsbD 7 ∧ s.daddr.extractLsb' 0 7 = ad
  · rw [if_pos haddr]
    obtain hef | hne | hall := h
    · exact absurd (hef.symm.trans haddr.1) Bool.false_ne_true
    · exact absurd haddr.2 hne
    · exact firstEp_eq_none fun n => answersEa_eq_false_iff.2 (hall n)
  · rw [if_neg haddr]

theorem sieMatch_eq_some (hef : s.daddr.getLsbD 7 = true) (had : s.daddr.extractLsb' 0 7 = ad) (hea : eaOf s.epr[n] = e)
    (hon : statOf .dirOut s.epr[n] ≠ .disabled ∨ statOf .dirIn s.epr[n] ≠ .disabled)
    (hfirst : ∀ k : Fin 8, k < n → eaOf s.epr[k] = e →
      statOf .dirOut s.epr[k] = .disabled ∧ statOf .dirIn s.epr[k] = .disabled) : sieMatch s ad e = some n := by
  unfold sieMatch
  rw [if_pos ⟨hef, had⟩]
  exact firstEp_eq_some (answersEa_iff.2 ⟨hea, hon⟩) fun k hk => answersEa_eq_false_iff.2 (hfirst k hk)

/-! ### The registers and the count word after a transaction (R292 to R294) -/

theorem afterSetup_eq (r : Half) (t : BitVec 2) : afterSetup r t = (r &&& 0x078F) ||| 0xA820
    ||| (if t.getLsbD 0 then 0x4000 else 0) ||| (if t.getLsbD 1 then 0x0040 else 0) := by
  apply BitVec.eq_of_getLsbD_eq
  intro i hi
  simp only [afterSetup, putBits, BitVec.getLsbD_or, BitVec.getLsbD_and, BitVec.getLsbD_not, hi, decide_true, Bool.true_and]
  generalize r.getLsbD i = rb
  revert rb t
  interval_cases i <;> decide

theorem withCount_eq (w : Half) {n : Nat} (hn : n ≤ 1023) : withCount w n = (w &&& 0xFC00) ||| BitVec.ofNat 16 n := by
  have hlow : BitVec.ofNat 16 n &&& 0x03FF = BitVec.ofNat 16 n := by
    apply BitVec.eq_of_toNat_eq
    rw [BitVec.toNat_and, BitVec.toNat_ofNat]
    exact (Nat.and_two_pow_sub_one_eq_mod _ 10).trans (by omega)
  rw [withCount, putBits, hlow]
  rfl

/-! ### Storing a packet (R292, R293) -/

/-- A packet that arrives on endpoint `n`: it is stored where it fits, and then `k` follows. -/
def sieStore (n : Fin 8) (d : List Byte) (k : M Unit) : M Unit := do
  let cr ← sieBd n .countRx
  if rxSize cr < d.length ∨ 1023 < d.length then answer .noAnswer
  else do
    let ar ← sieBd n .addrRx
    siePut (bufOffset ar) d
    sieCount n d.length
    k

theorem sieBd_ok {f : BdField} (h : 2 * bdIndex s.cfg n f + 2 ≤ s.cfg.pmaBytes) : sieBd n f s = .ok (bdWord s n f, s) :=
  if_pos h

theorem sieBd_bounds {f : BdField} (h : ¬ 2 * bdIndex s.cfg n f + 2 ≤ s.cfg.pmaBytes) :
    sieBd n f s = .error (.fault .pmaBounds) := if_neg h

variable {k : M Unit}

theorem sieStore_bounds (h : ¬ 2 * bdIndex s.cfg n .countRx + 2 ≤ s.cfg.pmaBytes) :
    sieStore n d k s = .error (.fault .pmaBounds) := bind_error (sieBd_bounds h)

variable (hk : 2 * bdIndex s.cfg n .countRx + 2 ≤ s.cfg.pmaBytes)

include hk

theorem sieStore_oversize (ho : rxSize (bdWord s n .countRx) < d.length ∨ 1023 < d.length) :
    sieStore n d k s = .ok ((), { s with bus := .noAnswer :: s.bus }) :=
  (bind_ok (sieBd_ok hk)).trans (congrFun (if_pos ho) s)

variable (ho : ¬ (rxSize (bdWord s n .countRx) < d.length ∨ 1023 < d.length))

include ho

/-- A packet of a fitting size is put at the buffer's offset. -/
theorem sieStore_put : sieStore n d k s = (do
    siePut (bufOffset (bdWord s n .addrRx)) d
    sieCount n d.length
    k : M Unit) s := by
  have hk' : 2 * bdIndex s.cfg n .addrRx + 2 ≤ s.cfg.pmaBytes := by
    simp only [bdIndex, BdField.index] at hk ⊢
    omega
  exact (bind_ok (sieBd_ok hk)).trans ((congrFun (if_neg ho) s).trans (bind_ok (sieBd_ok hk')))

theorem sieStore_past (hp : d ≠ [] ∧ s.cfg.pmaBytes < bufOffset (bdWord s n .addrRx) + d.length) :
    sieStore n d k s = .error (.fault .pmaBounds) := by
  have hno : ¬ (d = [] ∨ bufOffset (bdWord s n .addrRx) + d.length ≤ s.cfg.pmaBytes) :=
    not_or.2 ⟨hp.1, Nat.not_le.2 hp.2⟩
  exact (sieStore_put hk ho).trans (bind_error (if_neg hno))

/-- A packet with room is stored, and its count after it. -/
theorem sieStore_room (hp : ¬ (d ≠ [] ∧ s.cfg.pmaBytes < bufOffset (bdWord s n .addrRx) + d.length)) {m : Memory}
    (hm : m = s.pma.writeBytes (bufOffset (bdWord s n .addrRx)) d) : sieStore n d k s = k { s with
      pma := m.writeWord (bdIndex s.cfg n .countRx)
        ((m.word (bdIndex s.cfg n .countRx) &&& 0xFC00) ||| BitVec.ofNat 16 d.length) } := by
  subst hm
  have hyes : d = [] ∨ bufOffset (bdWord s n .addrRx) + d.length ≤ s.cfg.pmaBytes := by
    by_contra hno
    exact hp ⟨fun h => hno (.inl h), Nat.not_le.1 fun h => hno (.inr h)⟩
  rw [← withCount_eq _ (Nat.not_lt.1 fun h => ho (.inr h))]
  have hput : siePut (bufOffset (bdWord s n .addrRx)) d s
      = .ok ((), { s with pma := s.pma.writeBytes (bufOffset (bdWord s n .addrRx)) d }) := if_pos hyes
  exact (sieStore_put hk ho).trans ((bind_ok hput).trans (bind_ok rfl))

end sie

/-! ### The transactions -/

section transactions

variable {s : State} {ad : BitVec 7} {e : BitVec 4} {d : List Byte}

/-- A token that no endpoint matches is not answered (R291). -/
theorem sie_noMatch (hm : sieMatch s ad e = none) :
    sieSetup ad e d s = answer .noAnswer s ∧ sieOut ad e d s = answer .noAnswer s ∧ sieIn ad e s = answer .noAnswer s := by
  refine ⟨(bind_ok (getS_apply s)).trans ?_, (bind_ok (getS_apply s)).trans ?_, (bind_ok (getS_apply s)).trans ?_⟩ <;> rw [hm]

variable {n : Fin 8} (hm : sieMatch s ad e = some n)

include hm

/-- A SETUP on an endpoint that takes none is not answered (R292). -/
theorem sieSetup_ignored (h : typeOf s.epr[n] ≠ .control ∨ statOf .dirOut s.epr[n] = .disabled ∨ ctrOf .dirOut s.epr[n] = true) :
    sieSetup ad e d s = answer .noAnswer s := by
  refine (bind_ok (getS_apply s)).trans ?_
  rw [hm]
  dsimp only
  by_cases ht : typeOf s.epr[n] ≠ .control
  · rw [if_pos ht]
  by_cases hs : statOf .dirOut s.epr[n] = .disabled
  · rw [if_neg ht, if_pos hs]
  · rw [if_neg ht, if_neg hs, if_pos ((h.resolve_left ht).resolve_left hs)]

/-- A SETUP on a ready control endpoint is stored and acknowledged (R292). -/
theorem sieSetup_taken (ht : typeOf s.epr[n] = .control) (hs : statOf .dirOut s.epr[n] ≠ .disabled)
    (hc : ctrOf .dirOut s.epr[n] = false) : sieSetup ad e d s = sieStore n d (do
      let k ← draw
      upd fun t => t.setEpr n (afterSetup t.epr[n] (Config.freeToggles k))
      answer .ack) s := by
  refine (bind_ok (getS_apply s)).trans ?_
  rw [hm]
  dsimp only
  rw [if_neg (not_not_intro ht), if_neg hs, if_neg (by rw [hc]; exact Bool.false_ne_true)]
  rfl

/-- A double-buffered endpoint is not modelled on the bus (R302). -/
theorem sie_doubleBuffered (hdb : doubleBuffered s.epr[n] = true) :
    sieOut ad e d s = .error (.refused .doubleBuffered) ∧ sieIn ad e s = .error (.refused .doubleBuffered) := by
  refine ⟨(bind_ok (getS_apply s)).trans ?_, (bind_ok (getS_apply s)).trans ?_⟩ <;> rw [hm]
  · exact congrFun (if_pos hdb) s
  · exact congrFun (if_pos hdb) s

variable (hdb : doubleBuffered s.epr[n] = false)

include hdb

/-- An OUT on an endpoint that is not armed is answered by its status (R293). -/
theorem sieOut_unarmed :
    (statOf .dirOut s.epr[n] = .disabled → sieOut ad e d s = answer .noAnswer s)
    ∧ (statOf .dirOut s.epr[n] = .nak → sieOut ad e d s = answer .nak s)
    ∧ (statOf .dirOut s.epr[n] = .stall → sieOut ad e d s = answer .stall s) := by
  have hno : ¬ doubleBuffered s.epr[n] = true := by rw [hdb]; exact Bool.false_ne_true
  refine ⟨fun hst => ?_, fun hst => ?_, fun hst => ?_⟩
  all_goals
    refine (bind_ok (getS_apply s)).trans ?_
    rw [hm]
    dsimp only
    rw [if_neg hno, hst]

/-- An armed OUT: a packet in the status stage is stalled, any other is stored and acknowledged (R293, R296). -/
theorem sieOut_armed (hst : statOf .dirOut s.epr[n] = .valid) : sieOut ad e d s =
    (if typeOf s.epr[n] = .control ∧ kindOf s.epr[n] ∧ 0 < d.length then answer .stall
      else sieStore n d (do upd fun t => t.setEpr n (afterOut t.epr[n]); answer .ack)) s := by
  refine (bind_ok (getS_apply s)).trans ?_
  rw [hm]
  dsimp only
  rw [if_neg (by rw [hdb]; exact Bool.false_ne_true), hst]
  rfl

/-- An IN on an endpoint that is not armed is answered by its status (R294). -/
theorem sieIn_unarmed :
    (statOf .dirIn s.epr[n] = .disabled → sieIn ad e s = answer .noAnswer s)
    ∧ (statOf .dirIn s.epr[n] = .nak → sieIn ad e s = answer .nak s)
    ∧ (statOf .dirIn s.epr[n] = .stall → sieIn ad e s = answer .stall s) := by
  have hno : ¬ doubleBuffered s.epr[n] = true := by rw [hdb]; exact Bool.false_ne_true
  refine ⟨fun hst => ?_, fun hst => ?_, fun hst => ?_⟩
  all_goals
    refine (bind_ok (getS_apply s)).trans ?_
    rw [hm]
    dsimp only
    rw [if_neg hno, hst]

/-- An armed IN sends the packet that its descriptor names (R294). -/
theorem sieIn_armed (hst : statOf .dirIn s.epr[n] = .valid) : sieIn ad e s = (do
      let ct ← sieBd n .countTx
      let at_ ← sieBd n .addrTx
      if s.cfg.pmaBytes < bufOffset at_ + countOf ct then fault .pmaBounds
      else do
        answer (.data (dtogTx s.epr[n]) (s.pma.bytes (bufOffset at_) (countOf ct)))
        upd fun t => t.setEpr n (afterIn t.epr[n]) : M Unit) s := by
  refine (bind_ok (getS_apply s)).trans ?_
  rw [hm]
  dsimp only
  rw [if_neg (by rw [hdb]; exact Bool.false_ne_true), hst]

end transactions

/-- Settles O59: the first matching endpoint, its status, and a packet stored where it fits. -/
theorem sieTransactions : Obligations.SieTransactions := by
  intro s ad e d say
  have hsay : ∀ {m : M Unit} {b : BusAnswer}, m s = answer b s → outcome m s = say b := fun h => outcome_ok h
  refine ⟨fun h => ?_, fun n hef had hea hon hfirst => ?_⟩
  · obtain ⟨h1, h2, h3⟩ := sie_noMatch (d := d) (sieMatch_eq_none h)
    exact ⟨hsay h1, hsay h2, hsay h3⟩
  · have hm := sieMatch_eq_some hef had hea hon hfirst
    intro r w k a stored put readable oversize past room k' b len
    refine ⟨fun h => hsay (sieSetup_ignored hm h), fun ht hs hc => ?_, fun hdb => ?_, fun hdb => ?_⟩
    · have htaken := sieSetup_taken (d := d) hm ht hs hc
      refine ⟨fun hk => outcome_fault (htaken.trans (sieStore_bounds hk)),
        fun hk ho => hsay (htaken.trans (sieStore_oversize hk ho)),
        fun hk ho hp => outcome_fault (htaken.trans (sieStore_past hk ho hp)), fun ⟨hk, ho, hp⟩ => outcome_ok ?_⟩
      refine (htaken.trans (sieStore_room hk ho hp rfl)).trans ((bind_ok (draw_apply _)).trans
        ((bind_ok (upd_apply _ _)).trans ?_))
      rw [afterSetup_eq]
      rfl
    · obtain ⟨h1, h2⟩ := sie_doubleBuffered (d := d) hm hdb
      exact ⟨outcome_refused h1, outcome_refused h2⟩
    · obtain ⟨houtOff, houtNak, houtStall⟩ := sieOut_unarmed (d := d) hm hdb
      obtain ⟨hinOff, hinNak, hinStall⟩ := sieIn_unarmed hm hdb
      refine ⟨fun hst => hsay (houtOff hst), fun hst => hsay (houtNak hst), fun hst => hsay (houtStall hst), fun hst => ?_,
        fun hst => hsay (hinOff hst), fun hst => hsay (hinNak hst), fun hst => hsay (hinStall hst), fun hst => ?_⟩
      · have harmed := sieOut_armed (d := d) hm hdb hst
        refine ⟨fun ht hkind hd => hsay (harmed.trans (congrFun (if_pos ⟨ht, hkind, List.length_pos_iff.2 hd⟩) s)),
          fun hno => ?_⟩
        have hnot : ¬ (typeOf r = .control ∧ kindOf r ∧ 0 < d.length) := by
          rintro ⟨ht, hkind, hd⟩
          obtain h | h | h := hno
          · exact h ht
          · exact Bool.false_ne_true (h.symm.trans hkind)
          · exact List.length_pos_iff.1 hd h
        have hstore := harmed.trans (congrFun (if_neg hnot) s)
        exact ⟨fun hk => outcome_fault (hstore.trans (sieStore_bounds hk)),
          fun hk ho => hsay (hstore.trans (sieStore_oversize hk ho)),
          fun hk ho hp => outcome_fault (hstore.trans (sieStore_past hk ho hp)),
          fun ⟨hk, ho, hp⟩ => outcome_ok ((hstore.trans (sieStore_room hk ho hp rfl)).trans (bind_ok (upd_apply _ _)))⟩
      · have harmed := sieIn_armed hm hdb hst
        have haddr : 2 * k' + 2 ≤ s.cfg.pmaBytes → 2 * bdIndex s.cfg n .addrTx + 2 ≤ s.cfg.pmaBytes := by
          intro hk
          simp only [k', bdIndex, BdField.index] at hk ⊢
          omega
        have hread : 2 * k' + 2 ≤ s.cfg.pmaBytes → sieIn ad e s = _ := fun hk =>
          harmed.trans ((bind_ok (sieBd_ok hk)).trans (bind_ok (sieBd_ok (haddr hk))))
        refine ⟨fun hbad => outcome_fault ?_, fun hk hb => outcome_ok ?_⟩
        · by_cases hk : 2 * k' + 2 ≤ s.cfg.pmaBytes
          · exact (hread hk).trans (congrFun (if_pos (hbad.resolve_left (Nat.not_lt.2 hk))) s)
          · exact harmed.trans (bind_error (sieBd_bounds hk))
        · exact (hread hk).trans ((congrFun (if_neg (Nat.not_lt.2 hb)) s).trans (bind_ok (upd_apply _ s)))

end Sys2Proof.Machine
